-- ==== Sys2Proof/Word.lean ====
section
/-! DEFINITION. The bit strings of the block: a byte (00_scope.md section 5), a token word (R52) and a command
code (R17). Counts, indices and lengths are `Nat` (R16 allows it), so no other width stands here. -/

namespace Sys2Proof

/-- One byte: a cell of IBUF, OBUF or PBUF, a token's `length` or `next_byte` (R54, R55). -/
abbrev Byte := BitVec 8

/-- A token's distance field as it stands in the word, two's complement (R53). -/
abbrev Dist := BitVec 16

/-- One token word `W = D16 ++ L8 ++ B8`: a cell of TBUF (R52). -/
abbrev TokWord := BitVec 32

/-- The two bits of the CMD register (R17). -/
abbrev CmdCode := BitVec 2

end Sys2Proof
end

