-- ==== Sys2Proof/Config.lean ====
section
/-! DEFINITION. What is fixed for the life of one block: the constants of R5 (log entry 17), the parameters of R6.
The parameters are plain data held by the state and changed by no step, so that every statement is about every
value of them; there is no free value, since the spec leaves none open (R7). -/

namespace Sys2Proof

/-- R5: WINDOW_SIZE, the maximum back-reference distance. -/
def windowSize : Nat := 8192

/-- R5: MAX_MATCH, the maximum match length. -/
def maxMatch : Nat := 255

/-- R5: MIN_MATCH, the least length of an emitted match. -/
def minMatch : Nat := 3

/-- R5: TOKEN_BYTES, the persisted size of a token and the factor of the guard (R73). -/
def tokenBytes : Nat := 4

/-- R5: HEADER_BYTES, the size of the stream header. -/
def headerBytes : Nat := 8

/-- R6: ZERO_POLICY, what a MATCH token's `next_byte` of 0 means to the decoder. -/
inductive ZeroPolicy where
  | faithful
  | fixed
  deriving DecidableEq, Repr

/-- R6: the parameters the source leaves open. `guardBias` is 0 or 1. -/
structure Config where
  nMax : Nat
  guardBias : Fin 2
  zeroPolicy : ZeroPolicy
  deriving DecidableEq, Repr

/-- R6: the default of every parameter. -/
def Config.default : Config :=
  { nMax := 2147483647, guardBias := 0, zeroPolicy := .faithful }

end Sys2Proof
end

