-- ==== Sys2Proof/Syntax.lean ====
section
/-! DEFINITION. The instructions: one constructor per row of spec/opcode_table.json. Six rows are tokens, executed
by DECODE (R58); one is the stream header, executed by DESERIALIZE's first step (R56, R121); four are the commands
(R17). -/

namespace Sys2Proof

/-- The three formats of the table: a CMD code, a token (format T, R51), a stream header (format H, R56). -/
inductive Form where
  | cmd
  | token
  | header
  deriving DecidableEq, Repr

/-- One constructor per row of the opcode table. A token keeps its distance field as the signed 16-bit pattern of
R53, so that the illegal ones can be written too. -/
inductive Instr where
  /-- LIT: `(0, 0, b)` (R59, R94). -/
  | lit (b : Byte)
  /-- MATCH: `(d, l, b)`, `1 ≤ d ≤ 8192` (R60, R95). -/
  | matchTok (d : Dist) (l b : Byte)
  /-- ILLEGAL: a token word whose distance is negative or above 8192 (R61, R93). -/
  | illegal (d : Dist) (l b : Byte)
  /-- LIT.NC: `(0, l, b)` with `l ≠ 0`, the non-canonical literal (R62, R66). -/
  | litNC (l b : Byte)
  /-- MATCH.END: `(d, l, 0)` (R67). -/
  | matchEnd (d : Dist) (l : Byte)
  /-- ZLIT: `(0, 0, 0)`, a literal zero byte (R67). -/
  | zlit
  /-- STREAM: the 8-byte header, `original_length` then `token_count`, as 32-bit patterns (R56). -/
  | stream (olen tcnt : BitVec 32)
  /-- ENCODE: CMD = 0 (R17, R70). -/
  | encode
  /-- DECODE: CMD = 1 (R17, R90). -/
  | decode
  /-- SERIALIZE: CMD = 2 (R17, R110). -/
  | serialize
  /-- DESERIALIZE: CMD = 3 (R17, R120). -/
  | deserialize
  deriving DecidableEq, Repr

/-- The format of the row an instruction belongs to. -/
def Instr.form : Instr → Form
  | .lit _ => .token
  | .matchTok _ _ _ => .token
  | .illegal _ _ _ => .token
  | .litNC _ _ => .token
  | .matchEnd _ _ => .token
  | .zlit => .token
  | .stream _ _ => .header
  | .encode => .cmd
  | .decode => .cmd
  | .serialize => .cmd
  | .deserialize => .cmd

end Sys2Proof
end

