-- ==== Sys2Proof/Decode.lean ====
section
/-! DEFINITION. Decoding, total on any bytes and rejecting by name, and after it the encoder, both written from
30_encoding.md; the byte-order and bit-field helpers they and the machine use (R30, R52 to R55, R68). -/

namespace Sys2Proof

/-! ### Byte order and fields -/

/-- R30: a 32-bit pattern from its four bytes, the lowest address first (big-endian). -/
def be32 (b0 b1 b2 b3 : Byte) : BitVec 32 := b0 ++ b1 ++ b2 ++ b3

/-- R30: the four bytes of a 32-bit pattern, in address order. -/
def bytes32 (v : BitVec 32) : List Byte :=
  [v.extractLsb' 24 8, v.extractLsb' 16 8, v.extractLsb' 8 8, v.extractLsb' 0 8]

/-- R53: the distance field `W[31:16]`; read signed it is two's complement (PRESUMED by the spec itself, log entry 16). -/
def distField (w : TokWord) : Dist := w.extractLsb' 16 16

/-- R54: the length field `W[15:8]`. -/
def lenField (w : TokWord) : Byte := w.extractLsb' 8 8

/-- R55: the next_byte field `W[7:0]`. -/
def byteField (w : TokWord) : Byte := w.extractLsb' 0 8

/-- R68: `tok_word`. -/
def tokWord (d : Dist) (l b : Byte) : TokWord := d ++ l ++ b

/-- R58, R93: the distances of MATCH, `1 ≤ signed_16(d) ≤ 8192`. -/
def matchDistance (d : Dist) : Bool := decide (1 ≤ d.toInt ∧ d.toInt ≤ (windowSize : Int))

/-- R61: the distances no Token has, `signed_16(d) < 0` or `> 8192`. -/
def illegalDistance (d : Dist) : Bool := decide (d.toInt < 0 ∨ (windowSize : Int) < d.toInt)

/-! ### The decoder -/

/-- R58 with the notation of R66 and R67: the class by the distance field alone, and within a class the narrowest
row of the table that holds the word (DESIGN CHOICE, log entry 4: the rows LIT, LIT.NC, ZLIT and MATCH, MATCH.END
overlap in the table). -/
def decodeToken (w : TokWord) : Instr :=
  if illegalDistance (distField w) then .illegal (distField w) (lenField w) (byteField w)
  else if distField w = 0 then
    if lenField w = 0 then
      if byteField w = 0 then .zlit else .lit (byteField w)
    else .litNC (lenField w) (byteField w)
  else if byteField w = 0 then .matchEnd (distField w) (lenField w)
  else .matchTok (distField w) (lenField w) (byteField w)

/-- R17: all four codes are commands. -/
def decodeCmd (c : CmdCode) : Instr :=
  match c.toNat with
  | 0 => .encode
  | 1 => .decode
  | 2 => .serialize
  | _ => .deserialize

/-- Why bytes are no instruction of the format asked for. -/
inductive DecodeError where
  /-- Fewer bytes than the format has. -/
  | truncated (got need : Nat)
  /-- A byte that is no 2-bit code: CMD has no such value (R17). -/
  | notCommandCode (byte : Byte)
  deriving DecidableEq, Repr

/-- Bytes of an instruction: 1 for a CMD code (log entry 5), 4 for a token (R50), 8 for the header (R56). -/
def Form.bytes : Form → Nat
  | .cmd => 1
  | .token => tokenBytes
  | .header => headerBytes

/-- The decoder: an instruction of the given format from the front of the bytes, with the rest. -/
def decodeBytes (f : Form) (bs : List Byte) : Except DecodeError (Instr × List Byte) :=
  match f, bs with
  | .cmd, b :: rest =>
    if b.toNat < 4 then .ok (decodeCmd (b.extractLsb' 0 2), rest) else .error (.notCommandCode b)
  | .token, b0 :: b1 :: b2 :: b3 :: rest => .ok (decodeToken (be32 b0 b1 b2 b3), rest)
  | .header, b0 :: b1 :: b2 :: b3 :: b4 :: b5 :: b6 :: b7 :: rest =>
    .ok (.stream (be32 b0 b1 b2 b3) (be32 b4 b5 b6 b7), rest)
  | f, bs => .error (.truncated bs.length f.bytes)

/-! ### The encoder -/

/-- The bytes of an instruction as they are persisted (R31, R51, R56), a command as the byte of its code. -/
def encode : Instr → List Byte
  | .lit b => bytes32 (tokWord 0 0 b)
  | .matchTok d l b => bytes32 (tokWord d l b)
  | .illegal d l b => bytes32 (tokWord d l b)
  | .litNC l b => bytes32 (tokWord 0 l b)
  | .matchEnd d l => bytes32 (tokWord d l 0)
  | .zlit => bytes32 (tokWord 0 0 0)
  | .stream olen tcnt => bytes32 olen ++ bytes32 tcnt
  | .encode => [0]
  | .decode => [1]
  | .serialize => [2]
  | .deserialize => [3]

/-! ### The opcode table's numbering -/

/-- The format a width of the table stands for: 8 bits for a CMD code, 32 for a token, 64 for the header. -/
def tableForm (nbits : Nat) : Form :=
  if nbits ≤ 8 then .cmd else if nbits ≤ 32 then .token else .header

/-- The bytes of the table's number `w`, in the order the hardware stores them (R30, R52; the header's
`original_length` is bits 63:32, the table's own numbering). -/
def tableBytes (nbits w : Nat) : List Byte :=
  match tableForm nbits with
  | .cmd => [BitVec.ofNat 8 w]
  | .token => bytes32 (BitVec.ofNat 32 w)
  | .header => bytes32 (BitVec.ofNat 32 (w / 4294967296)) ++ bytes32 (BitVec.ofNat 32 w)

/-- The instruction the decoder reads from a table number. -/
def decodeTableWord (nbits w : Nat) : Option Instr :=
  match decodeBytes (tableForm nbits) (tableBytes nbits w) with
  | .ok (i, _) => some i
  | .error _ => none

end Sys2Proof
end

