-- ==== Sys2Proof/Machine/State.lean ====
section
/-! DEFINITION. The state as plain data: every register, buffer and control register of 10_state.md, the
configuration of R6, and the host's pending moves. INVENTORY.md lists each field with its rule and reset value. -/

namespace Sys2Proof.Machine

/-- R18: STATUS. -/
inductive Status where
  | idle
  | busy
  | done
  | error
  deriving DecidableEq, Repr

/-- R130: CAUSE; codes 6 and 7 do not exist. -/
inductive Cause where
  | none
  | incompressible
  | format
  | illegalToken
  | refBeforeStart
  | outputOverrun
  deriving DecidableEq, Repr

/-- R2, R17: the four commands, each run by one unit. -/
inductive Command where
  | encode
  | decode
  | serialize
  | deserialize
  deriving DecidableEq, Repr

/-- R20 to R23: the four address spaces. -/
inductive Space where
  | ibuf
  | tbuf
  | obuf
  | pbuf
  deriving DecidableEq, Repr

/-- The three address spaces whose cells are bytes (R33). -/
inductive ByteSpace where
  | ibuf
  | obuf
  | pbuf
  deriving DecidableEq, Repr

/-- R20 to R23: the length registers of the buffers. -/
inductive LenReg where
  | ibufN
  | tbufTcnt
  | tbufOlen
  | obufLen
  | pbufPlen
  deriving DecidableEq, Repr

/-- R18, R19: the control registers the host may read. -/
inductive Csr where
  | status
  | cause
  | info
  | flags
  deriving DecidableEq, Repr

/-- R162: one move of the host, made while STATUS ≠ BUSY. -/
inductive HostMove where
  /-- R17: write a code to CMD. -/
  | writeCmd (c : CmdCode)
  /-- R162: write one byte of IBUF, OBUF or PBUF. -/
  | writeByte (sp : ByteSpace) (a : Nat) (v : Byte)
  /-- R162: write one token word of TBUF. -/
  | writeToken (t : Nat) (w : TokWord)
  /-- R162: write a length register. -/
  | writeLen (r : LenReg) (n : Nat)
  /-- R162: read one byte of IBUF, OBUF or PBUF. -/
  | readByte (sp : ByteSpace) (a : Nat)
  /-- R162: read one token word of TBUF. -/
  | readToken (t : Nat)
  /-- R162: read a length register. -/
  | readLen (r : LenReg)
  /-- R18, R19: read STATUS, CAUSE, INFO or FLAGS. -/
  | readCsr (r : Csr)
  deriving DecidableEq, Repr

/-- R172: where SERIALIZE and DESERIALIZE stand, at the header or at the tokens (DEDUCED, log entry 11). -/
inductive Phase where
  | header
  | body
  deriving DecidableEq, Repr

/-- Why a step stops with a fault. All are safe: the model stops where the spec gives no value (R28, U6 to U8 of
93_implementation_defined.md), so no false claim can rest on the missing value. A command's own errors are no
faults of the model: they are states with STATUS = ERROR (R139). -/
inductive Fault where
  /-- A read, by a unit or by the host, of a cell that holds no value, or by the host of a cell at or beyond the
  buffer's length; the address is where the read begins. Safe. -/
  | noValue (sp : Space) (a : Nat)
  /-- A read of a length register that holds no value because the command that had it as its destination ended in
  ERROR (R139). Safe. -/
  | noLength (r : LenReg)
  /-- A host write at an address no instance has: at or above N_MAX (`8 + 4 × N_MAX` for PBUF, R20 to R23). Safe. -/
  | outsideSpace (sp : Space) (a : Nat)
  deriving DecidableEq, Repr

/-- Moves the spec gives nobody (R170, U5 and U7 of 93_implementation_defined.md), and the placeholder. All are safe:
the model stops. -/
inductive Refusal where
  /-- Raised by an arm of `exec` whose instruction has no meaning yet; no arm is left so. Safe. -/
  | notModelled (mnemonic : String)
  /-- A command taken up while another command runs: the host must not write CMD while STATUS = BUSY, and the spec
  defines no behaviour (R170). Raised by the four commands' meanings; no step reaches it. Safe. -/
  | cmdWhileBusy
  /-- A length above what the register's range holds (R6, R20, R21, R23; for OBUF.LEN, which R22 gives no range, log entry
  21): ENCODE with IBUF.N > N_MAX (U5), or a host write of such a length (log entry 8). Raised by ENCODE's start and by
  the host's length writes. Safe. -/
  | aboveRange
  deriving DecidableEq, Repr

/-- Cells of a byte buffer that hold a value, by rising address. An address not listed holds no value (R28). -/
abbrev ByteMem := List Host.Cell

/-- Cells of TBUF that hold a value, by rising index; a cell is one whole token word (R21). -/
abbrev TokMem := List (Nat × TokWord)

/-- R12: the registers of ENC, `lo` to `bdist` its search temporaries. Naturals, as R16 allows (log entry 10). -/
structure Enc where
  n : Nat
  p : Nat
  cnt : Nat
  lo : Nat
  maxlen : Nat
  i : Nat
  k : Nat
  blen : Nat
  bdist : Nat
  deriving DecidableEq, Repr

/-- R13: the registers of DEC, `d` to `k` its per-token latches. -/
structure Dec where
  olen : Nat
  tcnt : Nat
  ti : Nat
  cur : Nat
  d : Dist
  l : Byte
  b : Byte
  start : Nat
  k : Nat
  deriving DecidableEq, Repr

/-- R14: the registers of SER. -/
structure Ser where
  ti : Nat
  tcnt : Nat
  deriving DecidableEq, Repr

/-- R14: the registers of DES; the header fields are signed 32-bit patterns as read. -/
structure Des where
  ti : Nat
  olen : BitVec 32
  tcnt : BitVec 32
  deriving DecidableEq, Repr

/-- The whole machine. A length register is `none` exactly when the spec says it holds no value: from the start of
the command whose destination it is until that command ends DONE (R29, R139). `cfg` holds the parameters (log entry 9);
`host` and `hostIn`, the host's pending moves and the value of its last read, are the model's own (DESIGN CHOICE, log
entry 6). -/
structure State where
  cfg : Config
  cmd : CmdCode
  status : Status
  cause : Cause
  info : Nat
  lenmis : Bool
  phase : Phase
  enc : Enc
  dec : Dec
  ser : Ser
  des : Des
  ibuf : ByteMem
  ibufN : Option Nat
  tbuf : TokMem
  tbufTcnt : Option Nat
  tbufOlen : Option Nat
  obuf : ByteMem
  obufLen : Option Nat
  pbuf : ByteMem
  pbufPlen : Option Nat
  host : List HostMove
  hostIn : Nat
  deriving DecidableEq, Repr

/-- R29, R160: after reset STATUS is IDLE and CAUSE, INFO and FLAGS are 0, no cell holds a value and nothing is asked
of the block. The parameters are at their defaults (R6). The spec gives no other register a value: the zeros of
the unit registers, of CMD and of the length registers are the model's (DESIGN CHOICE, log entries 1 and 2). -/
def State.reset : State :=
  { cfg := Config.default
    cmd := 0
    status := .idle
    cause := .none
    info := 0
    lenmis := false
    phase := .header
    enc := { n := 0, p := 0, cnt := 0, lo := 0, maxlen := 0, i := 0, k := 0, blen := 0, bdist := 0 }
    dec := { olen := 0, tcnt := 0, ti := 0, cur := 0, d := 0, l := 0, b := 0, start := 0, k := 0 }
    ser := { ti := 0, tcnt := 0 }
    des := { ti := 0, olen := 0, tcnt := 0 }
    ibuf := []
    ibufN := some 0
    tbuf := []
    tbufTcnt := some 0
    tbufOlen := some 0
    obuf := []
    obufLen := some 0
    pbuf := []
    pbufPlen := some 0
    host := []
    hostIn := 0 }

end Sys2Proof.Machine
end

