-- ==== Sys2Proof/Machine/Ops.lean ====
section
/-! DEFINITION. The named operations over cells and registers, the start of a command, and the raising of an error
(R139), one operation for all commands. -/

namespace Sys2Proof.Machine

/-! ### Cells -/

/-- `MemRead(space, a, 1)` (00_scope.md section 5): the cell's value, `none` if it holds none (R28). -/
def memGet {α : Type} : List (Nat × α) → Nat → Option α
  | [], _ => none
  | (x, v) :: m, a => if a = x then some v else memGet m a

/-- `MemWrite(space, a, 1, [v])`: the cell takes the value, its place by rising address. -/
def memSet {α : Type} : List (Nat × α) → Nat → α → List (Nat × α)
  | [], a, v => [(a, v)]
  | (x, u) :: m, a, v =>
    if a < x then (a, v) :: (x, u) :: m
    else if a = x then (a, v) :: m
    else (x, u) :: memSet m a v

/-- `MemRead(space, a, n)`: the values at `a .. a + n - 1`, lowest address first; `none` if one cell holds none. -/
def memRead {α : Type} (m : List (Nat × α)) (a : Nat) : Nat → Option (List α)
  | 0 => some []
  | n + 1 =>
    match memGet m a, memRead m (a + 1) n with
    | some v, some vs => some (v :: vs)
    | _, _ => none

/-- `MemWrite(space, a, n, vs)`: the values at `a, a + 1, ...`, lowest address first. -/
def memWrite {α : Type} (m : List (Nat × α)) (a : Nat) : List α → List (Nat × α)
  | [] => m
  | v :: vs => memWrite (memSet m a v) (a + 1) vs

/-- The canonical form of a buffer: addresses strictly rising. No entry can equal what an unlisted address reads as,
since an unlisted address holds no value. -/
def Memory.wf {α : Type} : List (Nat × α) → Bool
  | [] => true
  | [_] => true
  | (x, _) :: (y, v) :: m => decide (x < y) && Memory.wf ((y, v) :: m)

/-! ### Control registers -/

/-- R17: the code of a command. -/
def commandCode : Command → CmdCode
  | .encode => 0
  | .decode => 1
  | .serialize => 2
  | .deserialize => 3

/-- R17: the command of a code; all four codes are defined. -/
def commandOf (c : CmdCode) : Command :=
  match c.toNat with
  | 0 => .encode
  | 1 => .decode
  | 2 => .serialize
  | _ => .deserialize

/-- R10, R18: the unit of command `c` is the one that runs. -/
def running (c : Command) (s : State) : Bool :=
  decide (s.status = .busy) && decide (commandOf s.cmd = c)

/-- R24, R139: the destination of a command, buffer and length registers (for DECODE also LENMIS, which stays 0),
holds no value. -/
def clearDestination (c : Command) (s : State) : State :=
  match c with
  | .encode => { s with tbuf := [], tbufTcnt := none, tbufOlen := none }
  | .decode => { s with obuf := [], obufLen := none, lenmis := false }
  | .serialize => { s with pbuf := [], pbufPlen := none }
  | .deserialize => { s with tbuf := [], tbufTcnt := none, tbufOlen := none }

/-- R139: `raise CAUSE(info)` by command `c`: STATUS, CAUSE and INFO are set and the destination holds no value; the
source and all else stay. -/
def raise (c : Command) (cause : Cause) (info : Nat) (s : State) : State :=
  { clearDestination c s with status := .error, cause := cause, info := info }

/-- R141: the ERROR state is left, as every other, by the write of a CMD code (R17): STATUS is BUSY, CAUSE, INFO and
FLAGS are cleared, and the destination holds no value until it is written (R29; DEDUCED, log entry 19). -/
def start (c : Command) (s : State) : State :=
  { clearDestination c s with
    cmd := commandCode c, status := .busy, cause := .none, info := 0, lenmis := false, phase := .header }

/-- R17, R170: a command's meaning either starts it, when no command runs, or goes on with it, when it runs itself;
the write of CMD while another command runs has no behaviour (log entry 8). -/
def takeUp (c : Command) (begin_ pass : State → Host.Outcome State Fault Refusal) (s : State) :
    Host.Outcome State Fault Refusal :=
  if s.status = .busy then
    if commandOf s.cmd = c then pass s else .refused .cmdWhileBusy
  else begin_ s

/-- The buffer of a byte space. -/
def State.bytes (s : State) : ByteSpace → ByteMem
  | .ibuf => s.ibuf
  | .obuf => s.obuf
  | .pbuf => s.pbuf

/-- The state with the buffer of a byte space replaced. -/
def State.setBytes (s : State) (sp : ByteSpace) (m : ByteMem) : State :=
  match sp with
  | .ibuf => { s with ibuf := m }
  | .obuf => { s with obuf := m }
  | .pbuf => { s with pbuf := m }

/-- The value of a length register, `none` where it holds none (R139). -/
def State.len (s : State) : LenReg → Option Nat
  | .ibufN => s.ibufN
  | .tbufTcnt => s.tbufTcnt
  | .tbufOlen => s.tbufOlen
  | .obufLen => s.obufLen
  | .pbufPlen => s.pbufPlen

/-- The state with a length register written. -/
def State.setLen (s : State) (r : LenReg) (n : Nat) : State :=
  match r with
  | .ibufN => { s with ibufN := some n }
  | .tbufTcnt => { s with tbufTcnt := some n }
  | .tbufOlen => { s with tbufOlen := some n }
  | .obufLen => { s with obufLen := some n }
  | .pbufPlen => { s with pbufPlen := some n }

/-! ### What DEC does to its registers -/

/-- R93: `(D, L, B) <- tok_fields(TBUF[TI])`, the token's fields in the latches. -/
def latch (d : Dist) (l b : Byte) (s : State) : State :=
  { s with dec := { s.dec with d := d, l := l, b := b } }

/-- R94 to R97: `OBUF[CUR] <- b ; CUR <- CUR + 1`. -/
def append (b : Byte) (s : State) : State :=
  { s with obuf := memSet s.obuf s.dec.cur b, dec := { s.dec with cur := s.dec.cur + 1 } }

/-- R92: `TI <- TI + 1`, after every token. -/
def nextToken (s : State) : State :=
  { s with dec := { s.dec with ti := s.dec.ti + 1 } }

end Sys2Proof.Machine
end

