-- ==== Sys2Proof/Machine/Operands.lean ====
section
/-! DEFINITION. The operands the rules compute: the encoder's search (R74 to R78), the decoder's copy (R95), the
places of the persisted stream (R31). Pure functions, so that each has its own laws. -/

namespace Sys2Proof.Machine

/-! ### The encoder's search (R74 to R78) -/

/-- R74: `LO = max(0, P - 8192)`. -/
def windowLo (p : Nat) : Nat := if windowSize ≤ p then p - windowSize else 0

/-- R75: `MAXLEN = min(255, N - P)`. -/
def maxLength (n p : Nat) : Nat := min maxMatch (n - p)

/-- R76: `L(i)` from offset `k` on: both bounds are tested before the bytes. The first argument counts the offsets
left below MAXLEN, so that the recursion is structural. -/
def matchFrom (inp : List Byte) (p maxlen i : Nat) : Nat → Nat → Nat
  | 0, k => k
  | left + 1, k =>
    if i + k < p ∧ k < maxlen ∧ inp[i + k]? = inp[p + k]? then matchFrom inp p maxlen i left (k + 1) else k

/-- R76: `L(i)`, the match length of the candidate start `i`. -/
def candidateLength (inp : List Byte) (p maxlen i : Nat) : Nat := matchFrom inp p maxlen i maxlen 0

/-- R77: the best candidate so far, with the loop variables I and K as the loop leaves them. -/
structure Best where
  blen : Nat
  bdist : Nat
  i : Nat
  k : Nat
  deriving DecidableEq, Repr

/-- R77: one pass of the scan, the non-strict comparison. -/
def better (inp : List Byte) (p maxlen i : Nat) (best : Best) : Best :=
  if best.blen ≤ candidateLength inp p maxlen i then
    { blen := candidateLength inp p maxlen i, bdist := p - i, i := i, k := candidateLength inp p maxlen i }
  else { best with i := i, k := candidateLength inp p maxlen i }

/-- R77: the scan over `left` candidates from `i` on, oldest window position first. -/
def scan (inp : List Byte) (p maxlen : Nat) : Nat → Nat → Best → Best
  | 0, _, best => best
  | left + 1, i, best => scan inp p maxlen left (i + 1) (better inp p maxlen i best)

/-- R77: `search(IBUF, N, P)`; `i` and `k` are what the loop variables held, which an empty window leaves. -/
def search (inp : List Byte) (n p i k : Nat) : Best :=
  scan inp p (maxLength n p) (p - windowLo p) (windowLo p) { blen := 0, bdist := 0, i := i, k := k }

/-! ### The decoder's copy (R95) -/

/-- How a copy ends: all bytes moved, or a byte that does not fit (at offset `k`), or a source cell with no value. -/
inductive CopyEnd where
  | moved (m : ByteMem) (cur k : Nat)
  | full (m : ByteMem) (cur k : Nat)
  | absent (a : Nat)
  deriving DecidableEq, Repr

/-- R95: the loop `for K in 0 .. L - 1`, one byte at a time, each read after the write before it. `left` counts the
moves to make, `k` is the next offset, `kOld` what K held. -/
def copyBytes (olen start : Nat) : Nat → Nat → Nat → ByteMem → Nat → CopyEnd
  | 0, _, kOld, m, cur => .moved m cur kOld
  | left + 1, k, _, m, cur =>
    if olen ≤ cur then .full m cur k
    else
      match memGet m (start + k) with
      | some v => copyBytes olen start left (k + 1) k (memSet m cur v) (cur + 1)
      | none => .absent (start + k)

/-- R96, R97: whether the trailing byte of a MATCH is appended. -/
def trailingPresent (z : ZeroPolicy) (b : Byte) (cur olen : Nat) : Bool :=
  match z with
  | .faithful => decide (b ≠ 0 ∧ cur < olen)
  | .fixed => decide (cur < olen)

/-! ### The persisted stream (R31, R32) -/

/-- R31: the PBUF offset of token `i`. -/
def tokenOffset (i : Nat) : Nat := headerBytes + tokenBytes * i

/-- R32: the size of a persisted stream of `t` tokens. -/
def persistedSize (t : Nat) : Nat := headerBytes + tokenBytes * t

/-- R57: the value of a header field, `signed_32` of its pattern. -/
def headerValue (v : BitVec 32) : Int := v.toInt

/-- R57, R121: the valid range of both header fields, 0 .. N_MAX. -/
def headerInRange (c : Config) (v : BitVec 32) : Bool :=
  decide (0 ≤ headerValue v ∧ headerValue v ≤ (c.nMax : Int))

end Sys2Proof.Machine
end

