-- ==== Sys2Proof/Machine/Flags.lean ====
section
/-! DEFINITION. The flag, the guard and the codes of the control registers as the host reads them. -/

namespace Sys2Proof.Machine

/-- R98: LENMIS, the cursor did not reach `original_length`. -/
def lengthMismatch (cur olen : Nat) : Bool := decide (cur ≠ olen)

/-- R73: the guard `(CNT + GUARD_BIAS) × 4 ≥ N`, computed exactly. -/
def guardFires (c : Config) (cnt n : Nat) : Bool := decide (n ≤ (cnt + c.guardBias.val) * tokenBytes)

/-- R18: the codes of STATUS. -/
def statusCode : Status → Nat
  | .idle => 0
  | .busy => 1
  | .done => 2
  | .error => 3

/-- R130: the codes of CAUSE. -/
def causeCode : Cause → Nat
  | .none => 0
  | .incompressible => 1
  | .format => 2
  | .illegalToken => 3
  | .refBeforeStart => 4
  | .outputOverrun => 5

/-- R19: what the host reads from a control register; FLAGS bit 0 is LENMIS. -/
def csrValue (s : State) : Csr → Nat
  | .status => statusCode s.status
  | .cause => causeCode s.cause
  | .info => s.info
  | .flags => if s.lenmis then 1 else 0

end Sys2Proof.Machine
end

