-- ==== Sys2Proof/Machine/Tokens.lean ====
section
/-! DEFINITION. The tokens, as DECODE executes them (R93 to R97), and one definition per token row of the table. Each
ends with `TI <- TI + 1` (R92) or with the command's error (R139). None tests STATUS (log entry 14); the latches are
written as the pseudocode writes them (log entry 13). -/

namespace Sys2Proof.Machine

/-- R93: an illegal distance. -/
def tokIllegal (d : Dist) (l b : Byte) (s : State) : Host.Outcome State Fault Refusal :=
  .next (raise .decode .illegalToken s.dec.ti (latch d l b s))

/-- R94: LIT, whatever its length field. -/
def tokLit (l b : Byte) (s : State) : Host.Outcome State Fault Refusal :=
  if s.dec.olen ≤ s.dec.cur then .next (raise .decode .outputOverrun s.dec.ti (latch 0 l b s))
  else .next (nextToken (append b (latch 0 l b s)))

/-- R96, R97: the trailing byte of a MATCH. -/
def appendTrailing (b : Byte) (s : State) : State :=
  if trailingPresent s.cfg.zeroPolicy b s.dec.cur s.dec.olen then append b s else s

/-- R95: the state after the copy's moves: the cells, the cursor and K. -/
def afterCopy (m : ByteMem) (cur k : Nat) (s : State) : State :=
  { s with obuf := m, dec := { s.dec with cur := cur, k := k } }

/-- R95: `START <- CUR - D`. -/
def setStart (start : Nat) (s : State) : State :=
  { s with dec := { s.dec with start := start } }

/-- R95: MATCH. The distance is read signed (R53); after R93 it is 1 .. 8192. -/
def tokMatch (d : Dist) (l b : Byte) (s : State) : Host.Outcome State Fault Refusal :=
  if (s.dec.cur : Int) < d.toInt then .next (raise .decode .refBeforeStart s.dec.ti (latch d l b s))
  else
    match copyBytes s.dec.olen (s.dec.cur - d.toNat) l.toNat 0 s.dec.k s.obuf s.dec.cur with
    | .moved m cur k =>
      .next (nextToken (appendTrailing b (afterCopy m cur k (setStart (s.dec.cur - d.toNat) (latch d l b s)))))
    | .full m cur k =>
      .next (raise .decode .outputOverrun s.dec.ti
        (afterCopy m cur k (setStart (s.dec.cur - d.toNat) (latch d l b s))))
    | .absent a => .fault (.noValue .obuf a)

/-- R90: the body of DECODE's loop on the word at TI, check and class dispatch (R93, R58). -/
def tokWordRun (w : TokWord) (s : State) : Host.Outcome State Fault Refusal :=
  if illegalDistance (distField w) then tokIllegal (distField w) (lenField w) (byteField w) s
  else if distField w = 0 then tokLit (lenField w) (byteField w) s
  else tokMatch (distField w) (lenField w) (byteField w) s

/-- LIT (R94). -/
def execLit (b : Byte) (s : State) : Host.Outcome State Fault Refusal := tokLit 0 b s

/-- MATCH (R95). -/
def execMatchTok (d : Dist) (l b : Byte) (s : State) : Host.Outcome State Fault Refusal := tokMatch d l b s

/-- ILLEGAL (R93). -/
def execIllegal (d : Dist) (l b : Byte) (s : State) : Host.Outcome State Fault Refusal := tokIllegal d l b s

/-- LIT.NC (R62, R94): the length is ignored. -/
def execLitNC (l b : Byte) (s : State) : Host.Outcome State Fault Refusal := tokLit l b s

/-- MATCH.END (R67, R95): `MATCH d, l, 0`. -/
def execMatchEnd (d : Dist) (l : Byte) (s : State) : Host.Outcome State Fault Refusal := tokMatch d l 0 s

/-- ZLIT (R67, R94): `LIT 0`. -/
def execZlit (s : State) : Host.Outcome State Fault Refusal := tokLit 0 0 s

end Sys2Proof.Machine
end

