-- ==== Sys2Proof/Machine/Decoder.lean ====
section
/-! DEFINITION. DECODE (R90 to R92, R98): its start, one token, its completion. -/

namespace Sys2Proof.Machine

/-- R91 with R17: the start of DECODE. -/
def decStart (s : State) : Host.Outcome State Fault Refusal :=
  match s.tbufOlen, s.tbufTcnt with
  | some olen, some tcnt =>
    .next { start .decode s with dec := { s.dec with olen := olen, tcnt := tcnt, ti := 0, cur := 0 } }
  | none, _ => .fault (.noLength .tbufOlen)
  | _, none => .fault (.noLength .tbufTcnt)

/-- R98: completion. -/
def decFinish (s : State) : State :=
  { s with obufLen := some s.dec.cur, lenmis := lengthMismatch s.dec.cur s.dec.olen, status := .done }

/-- R92: the token at TI, or the completion. -/
def decPass (s : State) : Host.Outcome State Fault Refusal :=
  if s.dec.ti < s.dec.tcnt then
    match memGet s.tbuf s.dec.ti with
    | some w => tokWordRun w s
    | none => .fault (.noValue .tbuf s.dec.ti)
  else .next (decFinish s)

/-- DECODE (R90): started when no command runs, one pass when it runs itself. -/
def execDecode (s : State) : Host.Outcome State Fault Refusal := takeUp .decode decStart decPass s

end Sys2Proof.Machine
end

