-- ==== Sys2Proof/Machine/Deserializer.lean ====
section
/-! DEFINITION. DESERIALIZE (R120 to R124) and the stream header it reads (R56, R57). -/

namespace Sys2Proof.Machine

/-- R161 with R17: the start of DESERIALIZE; its source length must hold a value. -/
def desStart (s : State) : Host.Outcome State Fault Refusal :=
  match s.pbufPlen with
  | some _ => .next { start .deserialize s with des := { s.des with ti := 0 } }
  | none => .fault (.noLength .pbufPlen)

/-- R122: the header fields in their registers. -/
def latchHeader (olen tcnt : BitVec 32) (s : State) : State :=
  { s with des := { s.des with olen := olen, tcnt := tcnt } }

/-- R121, checks 2 to 4 on a header that was read, and R122: the tokens are next. -/
def desHeader (plen : Nat) (olen tcnt : BitVec 32) (s : State) : State :=
  if headerInRange s.cfg olen = false then raise .deserialize .format 2 (latchHeader olen tcnt s)
  else if headerInRange s.cfg tcnt = false then raise .deserialize .format 3 (latchHeader olen tcnt s)
  else if plen ≠ persistedSize (headerValue tcnt).toNat then
    raise .deserialize .format 4 (latchHeader olen tcnt s)
  else { latchHeader olen tcnt s with phase := .body, des := { ti := 0, olen := olen, tcnt := tcnt } }

/-- STREAM (R56): the header record as DESERIALIZE's first step executes it, all four checks of R121 in order
(DESIGN CHOICE, log entry 18: the record is an instruction). -/
def execStream (olen tcnt : BitVec 32) (s : State) : Host.Outcome State Fault Refusal :=
  match s.pbufPlen with
  | some plen =>
    if plen < headerBytes then .next (raise .deserialize .format 1 s)
    else .next (desHeader plen olen tcnt s)
  | none => .fault (.noLength .pbufPlen)

/-- R121, R122: DESERIALIZE's first step: the length is checked before the header is read. -/
def desValidate (s : State) : Host.Outcome State Fault Refusal :=
  match s.pbufPlen with
  | some plen =>
    if plen < headerBytes then .next (raise .deserialize .format 1 s)
    else
      match memRead s.pbuf 0 headerBytes with
      | some [b0, b1, b2, b3, b4, b5, b6, b7] =>
        .next (desHeader plen (be32 b0 b1 b2 b3) (be32 b4 b5 b6 b7) s)
      | _ => .fault (.noValue .pbuf 0)
  | none => .fault (.noLength .pbufPlen)

/-- R123: the token at TI, assembled most significant byte first and not interpreted. -/
def desToken (s : State) : Host.Outcome State Fault Refusal :=
  match memRead s.pbuf (tokenOffset s.des.ti) tokenBytes with
  | some [b0, b1, b2, b3] =>
    .next { s with
      tbuf := memSet s.tbuf s.des.ti (be32 b0 b1 b2 b3)
      des := { s.des with ti := s.des.ti + 1 } }
  | _ => .fault (.noValue .pbuf (tokenOffset s.des.ti))

/-- R124: completion. -/
def desFinish (s : State) : State :=
  { s with
    tbufTcnt := some (headerValue s.des.tcnt).toNat
    tbufOlen := some (headerValue s.des.olen).toNat
    status := .done }

/-- R172: the header with its validation, then one token a step, then the completion. -/
def desPass (s : State) : Host.Outcome State Fault Refusal :=
  match s.phase with
  | .header => desValidate s
  | .body => if (s.des.ti : Int) < headerValue s.des.tcnt then desToken s else .next (desFinish s)

/-- DESERIALIZE (R120): started when no command runs, one pass when it runs itself. -/
def execDeserialize (s : State) : Host.Outcome State Fault Refusal := takeUp .deserialize desStart desPass s

end Sys2Proof.Machine
end

