-- ==== Sys2Proof/Machine/Encoder.lean ====
section
/-! DEFINITION. ENCODE (R70 to R82): its start, and one pass of its loop (R172). -/

namespace Sys2Proof.Machine

/-- R71 with R17: the start of ENCODE; an IBUF.N above N_MAX is no host move (U5). -/
def encStart (s : State) : Host.Outcome State Fault Refusal :=
  match s.ibufN with
  | none => .fault (.noLength .ibufN)
  | some n =>
    if n ≤ s.cfg.nMax then
      .next { start .encode s with enc := { s.enc with n := n, p := 0, cnt := 0 } }
    else .refused .aboveRange

/-- R74 to R77: the search temporaries written: window start, feasible length, and the search's result. -/
def setBest (lo maxlen : Nat) (best : Best) (s : State) : State :=
  { s with
    enc := { s.enc with
      lo := lo, maxlen := maxlen, i := best.i, k := best.k, blen := best.blen, bdist := best.bdist } }

/-- R74 to R78: the search of this position. -/
def encSearch (inp : List Byte) (s : State) : State :=
  setBest (windowLo s.enc.p) (maxLength s.enc.n s.enc.p) (search inp s.enc.n s.enc.p s.enc.i s.enc.k) s

/-- R79: the byte after the match, 0 if the match runs to the end of input. -/
def trailingByte (inp : List Byte) (n at_ : Nat) : Byte := if at_ < n then inp.getD at_ 0 else 0

/-- R79: a match is emitted and the position moves past its trailing byte. -/
def encMatch (inp : List Byte) (s : State) : State :=
  { s with
    tbuf := memSet s.tbuf s.enc.cnt
      (tokWord (BitVec.ofNat 16 s.enc.bdist) (BitVec.ofNat 8 s.enc.blen)
        (trailingByte inp s.enc.n (s.enc.p + s.enc.blen)))
    enc := { s.enc with p := s.enc.p + s.enc.blen + 1, cnt := s.enc.cnt + 1 } }

/-- R80: a literal is emitted; the byte at P exists, since P < N. -/
def encLiteral (inp : List Byte) (s : State) : State :=
  { s with
    tbuf := memSet s.tbuf s.enc.cnt (tokWord 0 0 (inp.getD s.enc.p 0))
    enc := { s.enc with p := s.enc.p + 1, cnt := s.enc.cnt + 1 } }

/-- R79, R80: a match longer than 2 is emitted, else a literal; `minMatch` is 3. -/
def encEmit (inp : List Byte) (s : State) : State :=
  if minMatch ≤ s.enc.blen then encMatch inp s else encLiteral inp s

/-- R81: completion. -/
def encFinish (s : State) : State :=
  { s with tbufTcnt := some s.enc.cnt, tbufOlen := some s.enc.n, status := .done }

/-- R72: one pass of the loop (guard R73, search, emission), or the completion. The source is read whole, since R85
leaves open which of its cells a search reads: a source cell with no value stops the pass (log entry 7). -/
def encPass (s : State) : Host.Outcome State Fault Refusal :=
  if s.enc.p < s.enc.n then
    if guardFires s.cfg s.enc.cnt s.enc.n then .next (raise .encode .incompressible s.enc.p s)
    else
      match memRead s.ibuf 0 s.enc.n with
      | some inp => .next (encEmit inp (encSearch inp s))
      | none => .fault (.noValue .ibuf 0)
  else .next (encFinish s)

/-- ENCODE (R70): started when no command runs, one pass when it runs itself. -/
def execEncode (s : State) : Host.Outcome State Fault Refusal := takeUp .encode encStart encPass s

end Sys2Proof.Machine
end

