-- ==== Sys2Proof/Machine/Serializer.lean ====
section
/-! DEFINITION. SERIALIZE (R110 to R114): its start, the header, one token, its completion. -/

namespace Sys2Proof.Machine

/-- R110, R161 with R17: the start of SERIALIZE. -/
def serStart (s : State) : Host.Outcome State Fault Refusal :=
  match s.tbufOlen, s.tbufTcnt with
  | some _, some tcnt => .next { start .serialize s with ser := { ti := 0, tcnt := tcnt } }
  | none, _ => .fault (.noLength .tbufOlen)
  | _, none => .fault (.noLength .tbufTcnt)

/-- R111: the header, `unsigned_32` of both values, most significant byte first. -/
def serHeader (s : State) : Host.Outcome State Fault Refusal :=
  match s.tbufOlen with
  | some olen =>
    .next { s with
      pbuf := memWrite s.pbuf 0 (bytes32 (BitVec.ofNat 32 olen) ++ bytes32 (BitVec.ofNat 32 s.ser.tcnt))
      phase := .body }
  | none => .fault (.noLength .tbufOlen)

/-- R112: the four bytes of the token at TI, unchecked. -/
def serToken (s : State) : Host.Outcome State Fault Refusal :=
  match memGet s.tbuf s.ser.ti with
  | some w =>
    .next { s with
      pbuf := memWrite s.pbuf (tokenOffset s.ser.ti) (bytes32 w)
      ser := { s.ser with ti := s.ser.ti + 1 } }
  | none => .fault (.noValue .tbuf s.ser.ti)

/-- R113, R114: completion. -/
def serFinish (s : State) : State :=
  { s with pbufPlen := some (persistedSize s.ser.tcnt), status := .done }

/-- R172: the header, then one token a step, then the completion. -/
def serPass (s : State) : Host.Outcome State Fault Refusal :=
  match s.phase with
  | .header => serHeader s
  | .body => if s.ser.ti < s.ser.tcnt then serToken s else .next (serFinish s)

/-- SERIALIZE (R110): started when no command runs, one pass when it runs itself. -/
def execSerialize (s : State) : Host.Outcome State Fault Refusal := takeUp .serialize serStart serPass s

end Sys2Proof.Machine
end

