-- ==== Sys2Proof/Machine/Dispatch.lean ====
section
/-! DEFINITION. exec: one arm per constructor of Instr, each one call of that instruction's meaning. -/

namespace Sys2Proof.Machine

def exec (i : Instr) (s : State) : Host.Outcome State Fault Refusal :=
  match i with
  | .lit b => Sys2Proof.Machine.execLit b s
  | .matchTok d l b => Sys2Proof.Machine.execMatchTok d l b s
  | .illegal d l b => Sys2Proof.Machine.execIllegal d l b s
  | .litNC l b => Sys2Proof.Machine.execLitNC l b s
  | .matchEnd d l => Sys2Proof.Machine.execMatchEnd d l s
  | .zlit => Sys2Proof.Machine.execZlit s
  | .stream olen tcnt => Sys2Proof.Machine.execStream olen tcnt s
  | .encode => Sys2Proof.Machine.execEncode s
  | .decode => Sys2Proof.Machine.execDecode s
  | .serialize => Sys2Proof.Machine.execSerialize s
  | .deserialize => Sys2Proof.Machine.execDeserialize s

end Sys2Proof.Machine
end

