-- ==== Sys2Proof/Machine/HostMoves.lean ====
section
/-! DEFINITION. The host's moves on buffers, length registers and control registers (R162). A move is made only while
STATUS ≠ BUSY (R166, R170), which the step sees to. -/

namespace Sys2Proof.Machine

/-- The space of a byte space, for naming a fault. -/
def ByteSpace.space : ByteSpace → Space
  | .ibuf => .ibuf
  | .obuf => .obuf
  | .pbuf => .pbuf

/-- R20, R22, R23: the first address a byte space never has (DESIGN CHOICE, log entry 15). -/
def byteCapacity (c : Config) : ByteSpace → Nat
  | .ibuf => c.nMax
  | .obuf => c.nMax
  | .pbuf => persistedSize c.nMax

/-- R20, R21, R23: the largest value of a length register. For OBUF.LEN R22 gives a width (31 bits) and no range:
its bound N_MAX is the model's (DESIGN CHOICE, log entry 21). -/
def lenLimit (c : Config) : LenReg → Nat
  | .ibufN => c.nMax
  | .tbufTcnt => c.nMax
  | .tbufOlen => c.nMax
  | .obufLen => c.nMax
  | .pbufPlen => persistedSize c.nMax

/-- The length register that bounds a byte space. -/
def lengthOf : ByteSpace → LenReg
  | .ibuf => .ibufN
  | .obuf => .obufLen
  | .pbuf => .pbufPlen

/-- R162: the host writes a byte. -/
def hostWriteByte (sp : ByteSpace) (a : Nat) (v : Byte) (s : State) : Host.Outcome State Fault Refusal :=
  if a < byteCapacity s.cfg sp then .next (s.setBytes sp (memSet (s.bytes sp) a v))
  else .fault (.outsideSpace sp.space a)

/-- R162: the host writes a token word, any 32-bit pattern (R21). -/
def hostWriteToken (t : Nat) (w : TokWord) (s : State) : Host.Outcome State Fault Refusal :=
  if t < s.cfg.nMax then .next { s with tbuf := memSet s.tbuf t w } else .fault (.outsideSpace .tbuf t)

/-- R162, R20, R21, R23: the host writes a length register; a value beyond the register's range is no move (log entry 8;
OBUF.LEN's range is log entry 21). -/
def hostWriteLen (r : LenReg) (n : Nat) (s : State) : Host.Outcome State Fault Refusal :=
  if n ≤ lenLimit s.cfg r then .next (s.setLen r n) else .refused .aboveRange

/-- R28, R162: the host reads a byte below the buffer's length; a cell with no value is the host's fault. -/
def hostReadByte (sp : ByteSpace) (a : Nat) (s : State) : Host.Outcome State Fault Refusal :=
  match s.len (lengthOf sp) with
  | none => .fault (.noLength (lengthOf sp))
  | some n =>
    if a < n then
      match memGet (s.bytes sp) a with
      | some v => .next { s with hostIn := v.toNat }
      | none => .fault (.noValue sp.space a)
    else .fault (.noValue sp.space a)

/-- R28, R162: the host reads a token word below TBUF.TCNT. -/
def hostReadToken (t : Nat) (s : State) : Host.Outcome State Fault Refusal :=
  match s.tbufTcnt with
  | none => .fault (.noLength .tbufTcnt)
  | some n =>
    if t < n then
      match memGet s.tbuf t with
      | some w => .next { s with hostIn := w.toNat }
      | none => .fault (.noValue .tbuf t)
    else .fault (.noValue .tbuf t)

/-- R162, R167: the host reads a length register. -/
def hostReadLen (r : LenReg) (s : State) : Host.Outcome State Fault Refusal :=
  match s.len r with
  | some n => .next { s with hostIn := n }
  | none => .fault (.noLength r)

/-- R18, R19: the host reads a control register. -/
def hostReadCsr (r : Csr) (s : State) : Host.Outcome State Fault Refusal :=
  .next { s with hostIn := csrValue s r }

end Sys2Proof.Machine
end

