-- ==== Sys2Proof/Machine/Fetch.lean ====
section
/-! DEFINITION. What the next step runs: the sequencer's instruction while a command runs (R10, R172), else the
host's next move (R8, R162). -/

namespace Sys2Proof.Machine

/-- What a step finds to do. -/
inductive Fetched where
  /-- An instruction, and the state it runs in. -/
  | run (i : Instr) (s : State)
  /-- A host move other than a CMD write, and the state it is made in. -/
  | move (m : HostMove) (s : State)
  /-- No command runs and the host has no move. -/
  | idle
  /-- The cell to fetch from holds no value. -/
  | stop (f : Fault)
  deriving DecidableEq, Repr

/-- R92, R93: DECODE fetches the whole cell TBUF[TI]; at the end of the stream only its completion is left. -/
def fetchToken (s : State) : Fetched :=
  if s.dec.ti < s.dec.tcnt then
    match memGet s.tbuf s.dec.ti with
    | some w => .run (decodeToken w) s
    | none => .stop (.noValue .tbuf s.dec.ti)
  else .run .decode s

/-- R121, R122: DESERIALIZE fetches the header record from PBUF[0 .. 8) when PBUF holds one; a PBUF too short is its
own first check. -/
def fetchHeader (s : State) : Fetched :=
  match s.pbufPlen with
  | none => .stop (.noLength .pbufPlen)
  | some plen =>
    if plen < headerBytes then .run .deserialize s
    else
      match memRead s.pbuf 0 headerBytes with
      | none => .stop (.noValue .pbuf 0)
      | some bs =>
        match decodeBytes .header bs with
        | .ok (i, _) => .run i s
        | .error _ => .stop (.noValue .pbuf 0)

/-- The sequencer's instruction while the command `c` runs. -/
def fetchRunning (c : Command) (s : State) : Fetched :=
  match c with
  | .encode => .run .encode s
  | .decode => fetchToken s
  | .serialize => .run .serialize s
  | .deserialize =>
    match s.phase with
    | .header => fetchHeader s
    | .body => .run .deserialize s

/-- R8, R17: the host's next move; the write of a CMD code starts the command of that code. -/
def fetchHost (s : State) : Fetched :=
  match s.host with
  | [] => .idle
  | .writeCmd c :: rest => .run (decodeCmd c) { s with host := rest }
  | m :: rest => .move m { s with host := rest }

/-- R8, R166: while a command runs the block has the turn, otherwise the host. -/
def fetch (s : State) : Fetched :=
  if s.status = .busy then fetchRunning (commandOf s.cmd) s else fetchHost s

/-- The effect of a host move; a CMD write runs the command's instruction. -/
def hostMove (m : HostMove) (s : State) : Host.Outcome State Fault Refusal :=
  match m with
  | .writeCmd c => exec (decodeCmd c) s
  | .writeByte sp a v => hostWriteByte sp a v s
  | .writeToken t w => hostWriteToken t w s
  | .writeLen r n => hostWriteLen r n s
  | .readByte sp a => hostReadByte sp a s
  | .readToken t => hostReadToken t s
  | .readLen r => hostReadLen r s
  | .readCsr r => hostReadCsr r s

/-! ### Placing an instruction for the next step -/

/-- A CMD code as the host's next move, in a state where the host has the turn. -/
def placeCommand (c : CmdCode) (s : State) : State :=
  { s with
    status := if s.status = .busy then .idle else s.status
    host := .writeCmd c :: s.host }

/-- A token word in TBUF where a running DECODE fetches next. -/
def placeToken (w : TokWord) (s : State) : State :=
  { s with
    status := .busy
    cmd := commandCode .decode
    tbuf := memSet s.tbuf s.dec.ti w
    dec := { s.dec with tcnt := max s.dec.tcnt (s.dec.ti + 1) } }

/-- A header record in PBUF where a running DESERIALIZE fetches it. -/
def placeHeader (bs : List Byte) (s : State) : State :=
  { s with
    status := .busy
    cmd := commandCode .deserialize
    phase := .header
    pbuf := memWrite s.pbuf 0 bs
    pbufPlen := some (max headerBytes (s.pbufPlen.getD headerBytes)) }

/-- The table's number `w` of `nbits` bits placed where the next step fetches (log entry 6). A command byte that is no
2-bit code cannot be written to CMD and leaves the state as it is. -/
def placeTableWord (nbits w : Nat) (s : State) : State :=
  match tableForm nbits with
  | .cmd => if w < 4 then placeCommand (BitVec.ofNat 2 w) s else s
  | .token => placeToken (BitVec.ofNat 32 w) s
  | .header => placeHeader (tableBytes nbits w) s

end Sys2Proof.Machine
end

