-- ==== Sys2Proof/Machine/Step.lean ====
section
/-! DEFINITION. One step (R172; DESIGN CHOICE, log entry 12): the instruction the sequencer stands at, or the host's next move, or nothing. -/

namespace Sys2Proof.Machine

/-- One step. With no command running and no move of the host the block waits, its state unchanged (R139, R173). -/
def step (s : State) : Host.Outcome State Fault Refusal :=
  match fetch s with
  | .run i t => exec i t
  | .move m t => hostMove m t
  | .idle => .next s
  | .stop f => .fault f

/-- The state with the table's number placed where the next step fetches. -/
def State.withFetchWord (s : State) (nbits w : Nat) : State := placeTableWord nbits w s

end Sys2Proof.Machine
end

