-- ==== Sys2Proof/WellFormed.lean ====
section
/-! DEFINITION. Which terms of `Instr` the table's rows stand for: the constraints of the rows, read so that every
token word is one term only (log entry 4). -/

namespace Sys2Proof

/-- LIT has a nonzero byte (the zero one is ZLIT, R67), MATCH a legal distance and a nonzero byte (the zero one is
MATCH.END), ILLEGAL a distance outside 0 .. 8192 (R61), LIT.NC a nonzero length (R66); a header may hold any bits,
since it is DESERIALIZE that rejects a malformed one (R121). -/
def wellFormed : Instr → Bool
  | .lit b => decide (b ≠ 0)
  | .matchTok d _ b => matchDistance d && decide (b ≠ 0)
  | .illegal d _ _ => illegalDistance d
  | .litNC l _ => decide (l ≠ 0)
  | .matchEnd d _ => matchDistance d
  | .zlit => true
  | .stream _ _ => true
  | .encode => true
  | .decode => true
  | .serialize => true
  | .deserialize => true

end Sys2Proof
end

