-- ==== Sys2Proof/Safety.lean ====
section
/-! DEFINITION. The terms of the claims: the invariants of the machine, what a running command may rely on, what a
token or an error leaves, and runs of several steps. -/

namespace Sys2Proof.Machine

/-! ### Token classes (R58) -/

/-- R58: the three classes of a token word. -/
inductive TokenClass where
  | literal
  | reference
  | outside
  deriving DecidableEq, Repr

/-- The class a token instruction belongs to; a command or a header has none. -/
def classOf : Instr → Option TokenClass
  | .lit _ => some .literal
  | .litNC _ _ => some .literal
  | .zlit => some .literal
  | .matchTok _ _ _ => some .reference
  | .matchEnd _ _ => some .reference
  | .illegal _ _ _ => some .outside
  | .stream _ _ => none
  | .encode => none
  | .decode => none
  | .serialize => none
  | .deserialize => none

/-- The instruction of a command. -/
def instrOf : Command → Instr
  | .encode => .encode
  | .decode => .decode
  | .serialize => .serialize
  | .deserialize => .deserialize

/-! ### Cells -/

/-- Every cell below `n` holds a value. -/
def HoldsBelow {α : Type} (m : List (Nat × α)) (n : Nat) : Prop := ∀ a, a < n → memGet m a ≠ none

/-- The cells that hold a value are exactly those below `n`. -/
def HoldsExactly {α : Type} (m : List (Nat × α)) (n : Nat) : Prop := ∀ a, memGet m a ≠ none ↔ a < n

/-- Every cell that holds a value is below `n`. -/
def Within {α : Type} (m : List (Nat × α)) (n : Nat) : Prop := ∀ a, memGet m a ≠ none → a < n

/-- The cells of `m` are those of `m'` but for the address range `[lo, hi)`. -/
def SameOutside {α : Type} (m m' : List (Nat × α)) (lo hi : Nat) : Prop :=
  ∀ a, a < lo ∨ hi ≤ a → memGet m' a = memGet m a

/-! ### Invariants -/

/-- The four buffers are in canonical form. -/
structure MemoriesCanonical (s : State) : Prop where
  ibuf : Memory.wf s.ibuf = true
  tbuf : Memory.wf s.tbuf = true
  obuf : Memory.wf s.obuf = true
  pbuf : Memory.wf s.pbuf = true

/-- R20 to R23: no cell beyond the address space holds a value. -/
structure BuffersInSpace (s : State) : Prop where
  ibuf : Within s.ibuf s.cfg.nMax
  tbuf : Within s.tbuf s.cfg.nMax
  obuf : Within s.obuf s.cfg.nMax
  pbuf : Within s.pbuf (8 + 4 * s.cfg.nMax)

/-- R12: the ranges of ENC's registers, with the counts that keep them there (R72, R87). -/
structure EncInRange (c : Config) (e : Enc) : Prop where
  n : e.n ≤ c.nMax
  p : e.p ≤ e.n + 1
  cnt_p : e.cnt ≤ e.p
  cnt_n : e.cnt ≤ e.n
  lo : e.lo ≤ c.nMax
  maxlen : e.maxlen ≤ 255
  i : e.i ≤ c.nMax
  k : e.k ≤ 255
  blen : e.blen ≤ 255
  bdist : e.bdist ≤ 8192

/-- R13: the ranges of DEC's registers (the latches D, L and B have theirs by their types). -/
structure DecInRange (c : Config) (d : Dec) : Prop where
  olen : d.olen ≤ c.nMax
  tcnt : d.tcnt ≤ c.nMax
  ti : d.ti ≤ d.tcnt
  cur : d.cur ≤ d.olen
  start : d.start ≤ c.nMax
  k : d.k ≤ 255

/-- R14, R20, R21, R23, R19: the ranges of the other registers; OBUF.LEN's bound N_MAX is the model's for what the host
writes (log entry 21). While DESERIALIZE is at its tokens the header it latched
has passed the checks of R121. -/
structure RegistersInRange (s : State) : Prop where
  nMax : s.cfg.nMax ≤ 2147483647
  enc : EncInRange s.cfg s.enc
  dec : DecInRange s.cfg s.dec
  serTi : s.ser.ti ≤ s.ser.tcnt
  serTcnt : s.ser.tcnt ≤ s.cfg.nMax
  desTi : s.des.ti ≤ s.cfg.nMax
  desBody : running .deserialize s = true → s.phase = .body →
    0 ≤ s.des.olen.toInt ∧ s.des.olen.toInt ≤ s.cfg.nMax ∧
    (s.des.ti : Int) ≤ s.des.tcnt.toInt ∧ s.des.tcnt.toInt ≤ s.cfg.nMax
  ibufN : ∀ n, s.ibufN = some n → n ≤ s.cfg.nMax
  tbufTcnt : ∀ n, s.tbufTcnt = some n → n ≤ s.cfg.nMax
  tbufOlen : ∀ n, s.tbufOlen = some n → n ≤ s.cfg.nMax
  obufLen : ∀ n, s.obufLen = some n → n ≤ s.cfg.nMax
  pbufPlen : ∀ n, s.pbufPlen = some n → n ≤ 8 + 4 * s.cfg.nMax
  info : s.info < 4294967296

/-- R18, R19: CAUSE and INFO say something exactly in the ERROR state, LENMIS only after a DECODE that ended DONE. -/
structure ControlConsistent (s : State) : Prop where
  cause : s.cause ≠ .none ↔ s.status = .error
  info : s.status ≠ .error → s.info = 0
  lenmis : s.lenmis = true → s.status = .done ∧ commandOf s.cmd = .decode

/-! ### A running command -/

/-- R24, R162: the cells and lengths the running command reads hold values. -/
def SourceReady (s : State) : Prop :=
  match commandOf s.cmd with
  | .encode => HoldsBelow s.ibuf s.enc.n
  | .decode => HoldsBelow s.tbuf s.dec.tcnt
  | .serialize => HoldsBelow s.tbuf s.ser.tcnt ∧ s.tbufOlen ≠ none
  | .deserialize => ∃ plen, s.pbufPlen = some plen ∧ HoldsBelow s.pbuf plen ∧
      (s.phase = .body → (plen : Int) = 8 + 4 * s.des.tcnt.toInt)

/-- R29, R35: what the running command has written so far is exactly the part of its destination that holds values,
and the destination's lengths hold none; SERIALIZE has written no token before its header. -/
def DestinationWritten (s : State) : Prop :=
  match commandOf s.cmd with
  | .encode => HoldsExactly s.tbuf s.enc.cnt ∧ s.tbufTcnt = none ∧ s.tbufOlen = none
  | .decode => HoldsExactly s.obuf s.dec.cur ∧ s.obufLen = none
  | .serialize => HoldsExactly s.pbuf (if s.phase = .header then 0 else 8 + 4 * s.ser.ti) ∧ s.pbufPlen = none ∧
      (s.phase = .header → s.ser.ti = 0)
  | .deserialize => HoldsExactly s.tbuf (if s.phase = .header then 0 else s.des.ti) ∧
      s.tbufTcnt = none ∧ s.tbufOlen = none

/-- What a running command relies on: a source with values and its own partial destination. -/
structure RunReady (s : State) : Prop where
  source : SourceReady s
  destination : DestinationWritten s

/-- R171: a bound on the passes left before the completion. -/
def remaining (s : State) : Nat :=
  match commandOf s.cmd with
  | .encode => s.enc.n - s.enc.p
  | .decode => s.dec.tcnt - s.dec.ti
  | .serialize => if s.phase = .header then s.ser.tcnt - s.ser.ti + 1 else s.ser.tcnt - s.ser.ti
  | .deserialize =>
    if s.phase = .header then (s.pbufPlen.getD 0 - 8) / 4 + 1 else s.des.tcnt.toInt.toNat - s.des.ti

/-! ### What tokens and errors leave -/

/-- R94: the effect of a LIT that fits; `l` is the latched length field. Nothing else changes. -/
def LitEffect (l b : Byte) (s t : State) : Prop :=
  t = { s with
    obuf := t.obuf
    dec := { s.dec with d := 0, l := l, b := b, cur := s.dec.cur + 1, ti := s.dec.ti + 1 } } ∧
  memGet t.obuf s.dec.cur = some b ∧ SameOutside s.obuf t.obuf s.dec.cur (s.dec.cur + 1)

/-- R96, R97: the trailing byte is appended at cursor `c`. -/
def TrailingAppended (b : Byte) (c : Nat) (s : State) : Prop :=
  (s.cfg.zeroPolicy = .faithful ∧ b ≠ 0 ∧ c < s.dec.olen) ∨ (s.cfg.zeroPolicy = .fixed ∧ c < s.dec.olen)

/-- R95 to R97: the effect of a MATCH that fits. Each copied byte equals the output byte `d` positions before it, as
the output stands after the token; the trailing byte follows or not; nothing else changes. -/
def MatchEffect (d : Dist) (l b : Byte) (s t : State) : Prop :=
  let c := s.dec.cur + l.toNat
  t = { s with
    obuf := t.obuf
    dec := { s.dec with
      d := d, l := l, b := b, start := s.dec.cur - d.toNat, k := t.dec.k, cur := t.dec.cur, ti := s.dec.ti + 1 } } ∧
  (∀ k, k < l.toNat → memGet t.obuf (s.dec.cur + k) ≠ none ∧
    memGet t.obuf (s.dec.cur + k) = memGet t.obuf (s.dec.cur - d.toNat + k)) ∧
  (TrailingAppended b c s → t.dec.cur = c + 1 ∧ memGet t.obuf c = some b) ∧
  (¬ TrailingAppended b c s → t.dec.cur = c) ∧
  SameOutside s.obuf t.obuf s.dec.cur t.dec.cur

/-- R95: a MATCH whose reference lies within the output so far, all of it written. -/
structure MatchSourceReady (d : Dist) (s : State) : Prop where
  least : 1 ≤ d.toInt
  most : d.toInt ≤ 8192
  within : d.toInt ≤ (s.dec.cur : Int)
  written : ∀ a, s.dec.cur - d.toNat ≤ a → a < s.dec.cur → memGet s.obuf a ≠ none

/-- R139 for DECODE: STATUS, CAUSE and INFO (the token index), the destination without value, the latches and cursor
of DEC whatever the token made of them before it failed, and nothing else. -/
def DecodeRaised (c : Cause) (s t : State) : Prop :=
  t = { s with
    status := .error, cause := c, info := s.dec.ti, obuf := [], obufLen := none, lenmis := false, dec := t.dec } ∧
  t.dec.ti = s.dec.ti ∧ t.dec.olen = s.dec.olen ∧ t.dec.tcnt = s.dec.tcnt

/-- R139 for DESERIALIZE: the number of the failed check in INFO, the destination without value, the header registers
whatever was read, and nothing else. -/
def FormatRaised (check : Nat) (s t : State) : Prop :=
  t = { s with
    status := .error, cause := .format, info := check, tbuf := [], tbufTcnt := none, tbufOlen := none,
    des := t.des }

/-- R24, R139: the destination of the command holds no value. -/
def DestinationWithoutValue (c : Command) (s : State) : Prop :=
  match c with
  | .encode => s.tbuf = [] ∧ s.tbufTcnt = none ∧ s.tbufOlen = none
  | .decode => s.obuf = [] ∧ s.obufLen = none ∧ s.lenmis = false
  | .serialize => s.pbuf = [] ∧ s.pbufPlen = none
  | .deserialize => s.tbuf = [] ∧ s.tbufTcnt = none ∧ s.tbufOlen = none

/-- R24: all buffers and lengths but the command's destination are the same in both states. -/
def OnlyDestinationDiffers (c : Command) (s t : State) : Prop :=
  t.ibuf = s.ibuf ∧ t.ibufN = s.ibufN ∧
  ((c = .encode ∨ c = .deserialize) ∨
    (t.tbuf = s.tbuf ∧ t.tbufTcnt = s.tbufTcnt ∧ t.tbufOlen = s.tbufOlen)) ∧
  (c = .decode ∨ (t.obuf = s.obuf ∧ t.obufLen = s.obufLen)) ∧
  (c = .serialize ∨ (t.pbuf = s.pbuf ∧ t.pbufPlen = s.pbufPlen))

/-! ### The lossy zero (R99, R100) -/

/-- R88: the input position a token of an encoded stream was emitted at: each token before it covers one byte more than
its length field, which is 0 for a literal. -/
def tokenStart (m : TokMem) : Nat → Nat
  | 0 => 0
  | i + 1 =>
    match memGet m i with
    | some w => tokenStart m i + (lenField w).toNat + 1
    | none => tokenStart m i

/-- R99: token `i` of the stream in TBUF is a match that does not run to the end of the input, and the input byte after
it is 0. -/
def lossyAt (s : State) (i : Nat) : Bool :=
  match memGet s.tbuf i with
  | some w =>
    decide (distField w ≠ 0 ∧ tokenStart s.tbuf i + (lenField w).toNat < s.tbufOlen.getD 0 ∧
      memGet s.ibuf (tokenStart s.tbuf i + (lenField w).toNat) = some 0)
  | none => false

/-- R99: the encoding in TBUF of the input in IBUF has a match whose true trailing byte is 0. -/
def LossyZero (s : State) : Prop := ∃ i, i < s.tbufTcnt.getD 0 ∧ lossyAt s i = true

/-! ### What is observable -/

/-- R11, R27: the state without what is not architectural: the registers of units that do not run, the temporaries of
the one that does, and CMD and the phase where no command runs that has one. -/
def observable (s : State) : State :=
  { s with
    cmd := if s.status = .busy then s.cmd else 0
    phase := if running .serialize s || running .deserialize s then s.phase else .header
    enc := if running .encode s then
        { s.enc with lo := 0, maxlen := 0, i := 0, k := 0, blen := 0, bdist := 0 }
      else State.reset.enc
    dec := if running .decode s then { s.dec with d := 0, l := 0, b := 0, start := 0, k := 0 }
      else State.reset.dec
    ser := if running .serialize s then s.ser else State.reset.ser
    des := if running .deserialize s then
        (if s.phase = .header then State.reset.des else s.des)
      else State.reset.des }

/-- Two outcomes no observer tells apart. -/
def SameOutcome : Host.Outcome State Fault Refusal → Host.Outcome State Fault Refusal → Prop
  | .next s, .next t => observable s = observable t
  | .fault f, .fault g => f = g
  | .refused r, .refused q => r = q
  | _, _ => False

/-! ### Runs -/

/-- `k` steps of the machine (Host/Core.lean), stopping at a fault or a refusal. -/
def runs (k : Nat) (s : State) : Host.Outcome State Fault Refusal := Host.Core.run Sys2Proof.core k s

/-- The state with the host about to write the code of command `c`, and nothing more. -/
def issue (c : Command) (s : State) : State := { s with host := [.writeCmd (commandCode c)] }

end Sys2Proof.Machine
end

