-- ==== Sys2Proof/Certificates/Slice0/Obligations.lean ====
section
/-! DEFINITION. The statements for the provers. Each docstring names the rule or the section of spec/ it formalises;
where a clause rests on the model's own choice it names the log entry. -/

open Sys2Proof Sys2Proof.Machine

/-! ### Reset and encoding -/

/-- 10_state.md section 8, 00_scope.md section 4: at reset STATUS is IDLE, CAUSE, INFO and FLAGS are 0, no cell holds a
value and the parameters are at their defaults. That the length registers are 0 is the model's choice (log entry 1). -/
def Obligations.ResetLeavesIdleAndEmpty : Prop :=
  State.reset.status = .idle ∧ State.reset.cause = .none ∧ State.reset.info = 0 ∧ State.reset.lenmis = false ∧
  (∀ a, memGet State.reset.ibuf a = none ∧ memGet State.reset.tbuf a = none ∧
    memGet State.reset.obuf a = none ∧ memGet State.reset.pbuf a = none) ∧
  State.reset.cfg = { nMax := 2 ^ 31 - 1, guardBias := 0, zeroPolicy := .faithful } ∧
  (∀ r, State.reset.len r = some 0)

/-- 30_encoding.md section 6 (R68, whose inverse claim is marked derived): `tok_word` and `tok_fields` are inverse. -/
def Obligations.TokenWordAndFieldsAreInverse : Prop :=
  (∀ (d : Dist) (l b : Byte),
    distField (tokWord d l b) = d ∧ lenField (tokWord d l b) = l ∧ byteField (tokWord d l b) = b) ∧
  (∀ w : TokWord, tokWord (distField w) (lenField w) (byteField w) = w)

/-- R51, with the byte order of R30: a token's bytes in address order are its distance's high and low byte, its length
and its next_byte; a 32-bit field has its most significant byte first, and is assembled so. -/
def Obligations.PersistedFieldsAreBigEndian : Prop :=
  (∀ (d : Dist) (l b : Byte), ∃ hi lo : Byte, bytes32 (tokWord d l b) = [hi, lo, l, b] ∧
    hi.toNat = d.toNat / 256 ∧ lo.toNat = d.toNat % 256) ∧
  (∀ v : BitVec 32, ∀ j, j < 4 → (bytes32 v)[j]? = some (BitVec.ofNat 8 (v.toNat / 256 ^ (3 - j)))) ∧
  (∀ b0 b1 b2 b3 : Byte,
    (be32 b0 b1 b2 b3).toNat = 16777216 * b0.toNat + 65536 * b1.toNat + 256 * b2.toNat + b3.toNat)

/-- R58: the class of every token word by its distance field, and by the match and mask values. -/
def Obligations.TokenClassFollowsDistance : Prop :=
  ∀ w : TokWord,
    (classOf (decodeToken w) = some .literal ↔ (distField w).toInt = 0) ∧
    (classOf (decodeToken w) = some .reference ↔ 1 ≤ (distField w).toInt ∧ (distField w).toInt ≤ 8192) ∧
    (classOf (decodeToken w) = some .outside ↔ (distField w).toInt < 0 ∨ 8192 < (distField w).toInt) ∧
    (classOf (decodeToken w) = some .literal ↔ w &&& 0xFFFF0000#32 = 0#32) ∧
    (classOf (decodeToken w) = some .reference ↔
      (w &&& 0xE0000000#32 = 0#32 ∧ w &&& 0xFFFF0000#32 ≠ 0#32) ∨ w &&& 0xFFFF0000#32 = 0x20000000#32)

/-- Words written out from R51, R56, R17 and R66 decode to what they stand for: the tokens T1, T2, T3, T4, T7, T9 and
T11 of 95_test_vectors.md, a header, and the four codes. -/
def Obligations.WordsOfTheSpecDecode : Prop :=
  decodeToken 0x00000061#32 = .lit 0x61#8 ∧
  decodeToken 0x00000000#32 = .zlit ∧
  decodeToken 0x00030361#32 = .matchTok 3#16 3#8 0x61#8 ∧
  decodeToken 0x20000300#32 = .matchEnd 8192#16 3#8 ∧
  decodeToken 0x00000561#32 = .litNC 5#8 0x61#8 ∧
  decodeToken 0x20010100#32 = .illegal 8193#16 1#8 0#8 ∧
  decodeToken 0xFFFF0100#32 = .illegal 0xFFFF#16 1#8 0#8 ∧
  decodeBytes .header [0, 0, 0, 0x18, 0, 0, 0, 6] = .ok (.stream 24#32 6#32, []) ∧
  decodeCmd 0 = .encode ∧ decodeCmd 1 = .decode ∧ decodeCmd 2 = .serialize ∧ decodeCmd 3 = .deserialize

/-- 30_encoding.md: decoding the bytes of a well-formed instruction gives it back and leaves the rest, for every
instruction and every operand. -/
def Obligations.DecodeOfEncodeIsIdentity : Prop :=
  ∀ (i : Instr) (rest : List Byte), wellFormed i = true →
    decodeBytes i.form (encode i ++ rest) = .ok (i, rest)

/-- 30_encoding.md: what the decoder reads is well formed, of the format asked for, and encodes to the bytes read. -/
def Obligations.EncodeOfDecodeIsIdentity : Prop :=
  ∀ (f : Form) (bs rest : List Byte) (i : Instr), decodeBytes f bs = .ok (i, rest) →
    wellFormed i = true ∧ i.form = f ∧ encode i ++ rest = bs

/-! ### Steps -/

/-- 10_state.md sections 1 and 3, 70_reset_and_hazards.md R172: a step runs the instruction it finds: the command of
the host's CMD write, the token at TI while DECODE runs, the header record while DESERIALIZE stands at it, and else
the running command itself. Nothing is added around `exec`, but that the host's move is used up. The host's list of
moves (log entry 6), the cut into steps (log entry 12) and the header record as an instruction (log entry 18) are the
model's choices; the first clause rests on 6, the third on 12 and 18, the others on 12. -/
def Obligations.StepRunsTheInstructionItFinds : Prop :=
  (∀ (s : State) (c : CmdCode) (rest : List HostMove), s.status ≠ .busy → s.host = .writeCmd c :: rest →
    step s = exec (decodeCmd c) { s with host := rest }) ∧
  (∀ (s : State) (w : TokWord), running .decode s = true → s.dec.ti < s.dec.tcnt →
    memGet s.tbuf s.dec.ti = some w → step s = exec (decodeToken w) s) ∧
  (∀ (s : State) (plen : Nat) (bs rest : List Byte) (i : Instr), running .deserialize s = true →
    s.phase = .header → s.pbufPlen = some plen → 8 ≤ plen → memRead s.pbuf 0 8 = some bs →
    decodeBytes .header bs = .ok (i, rest) → step s = exec i s) ∧
  (∀ s : State, running .encode s = true → step s = exec .encode s) ∧
  (∀ s : State, running .decode s = true → s.dec.tcnt ≤ s.dec.ti → step s = exec .decode s) ∧
  (∀ s : State, running .serialize s = true → step s = exec .serialize s) ∧
  (∀ s : State, running .deserialize s = true → s.phase = .body → step s = exec .deserialize s) ∧
  (∀ (s : State) (plen : Nat), running .deserialize s = true → s.phase = .header → s.pbufPlen = some plen →
    plen < 8 → step s = exec .deserialize s)

/-- 60_exceptions.md R139 and 70_reset_and_hazards.md R173: with no command running and nothing asked, the block
stays as it is (that this waiting is a step is the model's choice, log entry 6). -/
def Obligations.IdleBlockStaysAsItIs : Prop :=
  ∀ s : State, s.status ≠ .busy → s.host = [] → step s = .next s

/-- R71, R91, and 70_reset_and_hazards.md section 1 for the other two: each code, taken up while no command runs, starts
its command: STATUS is BUSY, CAUSE, INFO and FLAGS are 0, the unit's registers take their initial values from the
source's length registers, the destination holds no value, and nothing else changes (that the destination holds no value
from the CMD write on is log entry 19, the phase log entry 11). -/
def Obligations.CommandWriteStartsItsUnit : Prop :=
  (∀ (s : State) (n : Nat), s.status ≠ .busy → s.ibufN = some n → n ≤ s.cfg.nMax →
    exec (decodeCmd 0) s = .next { s with
      cmd := 0, status := .busy, cause := .none, info := 0, lenmis := false, phase := .header,
      enc := { s.enc with n := n, p := 0, cnt := 0 },
      tbuf := [], tbufTcnt := none, tbufOlen := none }) ∧
  (∀ (s : State) (olen tcnt : Nat), s.status ≠ .busy → s.tbufOlen = some olen → s.tbufTcnt = some tcnt →
    exec (decodeCmd 1) s = .next { s with
      cmd := 1, status := .busy, cause := .none, info := 0, lenmis := false, phase := .header,
      dec := { s.dec with olen := olen, tcnt := tcnt, ti := 0, cur := 0 },
      obuf := [], obufLen := none }) ∧
  (∀ (s : State) (olen tcnt : Nat), s.status ≠ .busy → s.tbufOlen = some olen → s.tbufTcnt = some tcnt →
    exec (decodeCmd 2) s = .next { s with
      cmd := 2, status := .busy, cause := .none, info := 0, lenmis := false, phase := .header,
      ser := { ti := 0, tcnt := tcnt },
      pbuf := [], pbufPlen := none }) ∧
  (∀ (s : State) (plen : Nat), s.status ≠ .busy → s.pbufPlen = some plen →
    exec (decodeCmd 3) s = .next { s with
      cmd := 3, status := .busy, cause := .none, info := 0, lenmis := false, phase := .header,
      des := { s.des with ti := 0 },
      tbuf := [], tbufTcnt := none, tbufOlen := none })

/-- R71, R91: the initialisation of ENCODE's and of DECODE's registers; no cell of the output buffer holds a value. -/
def Obligations.CommandsInitialiseTheirRegisters : Prop :=
  (∀ (s : State) (n : Nat), s.status ≠ .busy → s.ibufN = some n → n ≤ s.cfg.nMax →
    ∃ t, exec .encode s = .next t ∧ t.enc.n = n ∧ t.enc.p = 0 ∧ t.enc.cnt = 0) ∧
  (∀ (s : State) (olen tcnt : Nat), s.status ≠ .busy → s.tbufOlen = some olen → s.tbufTcnt = some tcnt →
    ∃ t, exec .decode s = .next t ∧ t.dec.olen = olen ∧ t.dec.tcnt = tcnt ∧ t.dec.ti = 0 ∧ t.dec.cur = 0 ∧
      ∀ a, memGet t.obuf a = none)

/-- 70_reset_and_hazards.md R170 (no behaviour defined) and U5, U7 of 93_implementation_defined.md: a command taken
up while another runs, and ENCODE of an IBUF.N above N_MAX, are refused by name (log entry 8). -/
def Obligations.MovesTheHostDoesNotHaveAreRefused : Prop :=
  (∀ (s : State) (c : CmdCode), s.status = .busy → s.cmd ≠ c →
    exec (decodeCmd c) s = .refused .cmdWhileBusy) ∧
  (∀ (s : State) (n : Nat), s.status ≠ .busy → s.ibufN = some n → s.cfg.nMax < n →
    exec .encode s = .refused .aboveRange)

/-! ### ENCODE -/

/-- R76: `L(i)` is the length of the longest common prefix of the two positions, cut off at MAXLEN and at the distance
of the candidate. -/
def Obligations.CandidateLengthIsCappedCommonPrefix : Prop :=
  ∀ (inp : List Byte) (p maxlen i : Nat), i < p →
    let len := candidateLength inp p maxlen i
    len ≤ maxlen ∧ i + len ≤ p ∧ (∀ j, j < len → inp[i + j]? = inp[p + j]?) ∧
    (len < maxlen → i + len < p → inp[i + len]? ≠ inp[p + len]?)

/-- 40_encoder.md section 2 (R78, marked derived): the search returns the greatest match length in the window and the
distance of the nearest candidate that has it; an empty window gives (0, 0). -/
def Obligations.SearchFindsTheNearestLongestMatch : Prop :=
  ∀ (inp : List Byte) (n p i k : Nat),
    let r := search inp n p i k
    (p = 0 → r.blen = 0 ∧ r.bdist = 0) ∧
    (0 < p → ∃ best, p - 8192 ≤ best ∧ best < p ∧ r.bdist = p - best ∧
      r.blen = candidateLength inp p (min 255 (n - p)) best ∧
      (∀ j, p - 8192 ≤ j → j < p → candidateLength inp p (min 255 (n - p)) j ≤ r.blen) ∧
      (∀ j, best < j → j < p → candidateLength inp p (min 255 (n - p)) j < r.blen))

/-- R73, R82, R131: with input left, a pass of ENCODE aborts exactly when `(CNT + GUARD_BIAS) × 4 ≥ N`, whatever the
cells hold: STATUS is ERROR, CAUSE is INCOMPRESSIBLE, INFO is the position, TBUF and its registers hold no value and
nothing else changes. -/
def Obligations.EncodeAbortsExactlyWhenTheGuardFires : Prop :=
  (∀ s : State, running .encode s = true → s.enc.p < s.enc.n →
    s.enc.n ≤ (s.enc.cnt + s.cfg.guardBias.val) * 4 →
    exec .encode s = .next { s with
      status := .error, cause := .incompressible, info := s.enc.p,
      tbuf := [], tbufTcnt := none, tbufOlen := none }) ∧
  (∀ s t : State, running .encode s = true → exec .encode s = .next t → t.status = .error →
    s.enc.p < s.enc.n ∧ s.enc.n ≤ (s.enc.cnt + s.cfg.guardBias.val) * 4)

/-- R79: a pass whose search finds a match longer than 2 emits that distance, that length and the byte after the match
(0 if it runs to the end of input), moves past them, and changes only the search temporaries besides. -/
def Obligations.EncodeEmitsTheMatchItFinds : Prop :=
  ∀ (s : State) (inp : List Byte), running .encode s = true → s.enc.p < s.enc.n →
    (s.enc.cnt + s.cfg.guardBias.val) * 4 < s.enc.n → memRead s.ibuf 0 s.enc.n = some inp →
    2 < (search inp s.enc.n s.enc.p s.enc.i s.enc.k).blen →
    ∃ t w, exec .encode s = .next t ∧
      t = { s with
        tbuf := t.tbuf
        enc := { t.enc with
          n := s.enc.n, p := s.enc.p + (search inp s.enc.n s.enc.p s.enc.i s.enc.k).blen + 1,
          cnt := s.enc.cnt + 1 } } ∧
      memGet t.tbuf s.enc.cnt = some w ∧ SameOutside s.tbuf t.tbuf s.enc.cnt (s.enc.cnt + 1) ∧
      (distField w).toInt = (search inp s.enc.n s.enc.p s.enc.i s.enc.k).bdist ∧
      (lenField w).toNat = (search inp s.enc.n s.enc.p s.enc.i s.enc.k).blen ∧
      (some (byteField w) =
        if s.enc.p + (search inp s.enc.n s.enc.p s.enc.i s.enc.k).blen < s.enc.n then
          inp[s.enc.p + (search inp s.enc.n s.enc.p s.enc.i s.enc.k).blen]?
        else some 0)

/-- R80: a pass whose search finds no match longer than 2 emits the byte at the position as a literal, moves past it,
and changes only the search temporaries besides. -/
def Obligations.EncodeEmitsALiteralOtherwise : Prop :=
  ∀ (s : State) (inp : List Byte), running .encode s = true → s.enc.p < s.enc.n →
    (s.enc.cnt + s.cfg.guardBias.val) * 4 < s.enc.n → memRead s.ibuf 0 s.enc.n = some inp →
    (search inp s.enc.n s.enc.p s.enc.i s.enc.k).blen ≤ 2 →
    ∃ t b, exec .encode s = .next t ∧ inp[s.enc.p]? = some b ∧
      t = { s with
        tbuf := t.tbuf
        enc := { t.enc with n := s.enc.n, p := s.enc.p + 1, cnt := s.enc.cnt + 1 } } ∧
      memGet t.tbuf s.enc.cnt = some (tokWord 0 0 b) ∧
      SameOutside s.tbuf t.tbuf s.enc.cnt (s.enc.cnt + 1)

/-- R81: with no input left the pass completes: TBUF.TCNT and TBUF.OLEN are written, STATUS is DONE, all else stays. -/
def Obligations.EncodeCompletesWithCountAndLength : Prop :=
  ∀ s : State, running .encode s = true → s.enc.n ≤ s.enc.p →
    exec .encode s = .next { s with
      tbufTcnt := some s.enc.cnt, tbufOlen := some s.enc.n, status := .done }

/-- 40_encoder.md section 3 (R84, R86, R88, marked derived): a token a pass emits is a literal of length 0 whose byte
is the input's, or a match of 3 to 255 bytes at a distance of at least its length and at most 8192, within the input
before the position, equal to the input at the position; the position moves past what the token covers. -/
def Obligations.EmittedTokensDescribeTheInput : Prop :=
  ∀ s t : State, running .encode s = true → exec .encode s = .next t → t.status = .busy →
    ∃ w, memGet t.tbuf s.enc.cnt = some w ∧ t.enc.cnt = s.enc.cnt + 1 ∧
      ((distField w = 0 ∧ lenField w = 0 ∧ memGet s.ibuf s.enc.p = some (byteField w) ∧
          t.enc.p = s.enc.p + 1) ∨
       (3 ≤ (lenField w).toNat ∧ (lenField w).toNat ≤ (distField w).toNat ∧ (distField w).toNat ≤ 8192 ∧
          (distField w).toNat ≤ s.enc.p ∧ s.enc.p + (lenField w).toNat ≤ s.enc.n ∧
          (∀ j, j < (lenField w).toNat →
            memGet s.ibuf (s.enc.p - (distField w).toNat + j) = memGet s.ibuf (s.enc.p + j)) ∧
          t.enc.p = s.enc.p + (lenField w).toNat + 1))

/-! ### DECODE and its tokens -/

/-- R94: LIT, LIT.NC and ZLIT append their byte when the output has room, whatever the length field and whatever the
zero policy, and raise OUTPUT_OVERRUN when it has none. -/
def Obligations.LiteralsAppendTheirByte : Prop :=
  ∀ (l b : Byte) (s : State),
    (s.dec.cur < s.dec.olen →
      (∃ t, exec (.lit b) s = .next t ∧ LitEffect 0 b s t) ∧
      (∃ t, exec (.litNC l b) s = .next t ∧ LitEffect l b s t) ∧
      (∃ t, exec .zlit s = .next t ∧ LitEffect 0 0 s t)) ∧
    (s.dec.olen ≤ s.dec.cur →
      (∃ t, exec (.lit b) s = .next t ∧ DecodeRaised .outputOverrun s t) ∧
      (∃ t, exec (.litNC l b) s = .next t ∧ DecodeRaised .outputOverrun s t) ∧
      (∃ t, exec .zlit s = .next t ∧ DecodeRaised .outputOverrun s t))

/-- R95, R96, R97: MATCH and MATCH.END, where the reference lies in the output so far and the copy fits, copy byte by
byte from `d` positions back and append the trailing byte as the zero policy says. -/
def Obligations.MatchesCopyByteByByteAndAppend : Prop :=
  ∀ (d : Dist) (l b : Byte) (s : State), MatchSourceReady d s → s.dec.cur + l.toNat ≤ s.dec.olen →
    (∃ t, exec (.matchTok d l b) s = .next t ∧ MatchEffect d l b s t) ∧
    (∃ t, exec (.matchEnd d l) s = .next t ∧ MatchEffect d l 0 s t)

/-- 41_decoder.md section 5 (R101, marked derived): the copied bytes are the `d` bytes before the cursor, repeated
periodically. -/
def Obligations.OverlappingCopiesRepeatPeriodically : Prop :=
  ∀ (d : Dist) (l b : Byte) (s t : State), MatchSourceReady d s → s.dec.cur + l.toNat ≤ s.dec.olen →
    exec (.matchTok d l b) s = .next t →
    ∀ k, k < l.toNat →
      memGet t.obuf (s.dec.cur + k) = memGet s.obuf (s.dec.cur - d.toNat + k % d.toNat)

/-- R134: a MATCH whose distance exceeds the cursor raises REF_BEFORE_START before it copies a byte, whatever room the
output has. -/
def Obligations.MatchesBeforeTheStartRaise : Prop :=
  ∀ (d : Dist) (l b : Byte) (s : State), (s.dec.cur : Int) < d.toInt → d.toInt ≤ 8192 →
    (∃ t, exec (.matchTok d l b) s = .next t ∧ DecodeRaised .refBeforeStart s t ∧ t.dec.cur = s.dec.cur) ∧
    (∃ t, exec (.matchEnd d l) s = .next t ∧ DecodeRaised .refBeforeStart s t ∧ t.dec.cur = s.dec.cur)

/-- R135: a LIT with the output full, and a MATCH with a copied byte that does not fit, raise OUTPUT_OVERRUN; a MATCH
whose copied bytes fit does not, whatever room is left for its trailing byte. -/
def Obligations.OverrunsAreRaisedExactlyPastTheOutput : Prop :=
  (∀ (l b : Byte) (s : State), s.dec.olen ≤ s.dec.cur →
    (∃ t, exec (.lit b) s = .next t ∧ DecodeRaised .outputOverrun s t) ∧
    (∃ t, exec (.litNC l b) s = .next t ∧ DecodeRaised .outputOverrun s t) ∧
    (∃ t, exec .zlit s = .next t ∧ DecodeRaised .outputOverrun s t)) ∧
  (∀ (d : Dist) (l b : Byte) (s : State), MatchSourceReady d s → l ≠ 0 → s.dec.olen < s.dec.cur + l.toNat →
    (∃ t, exec (.matchTok d l b) s = .next t ∧ DecodeRaised .outputOverrun s t) ∧
    (∃ t, exec (.matchEnd d l) s = .next t ∧ DecodeRaised .outputOverrun s t)) ∧
  (∀ (d : Dist) (l b : Byte) (s : State), MatchSourceReady d s → s.dec.cur + l.toNat ≤ s.dec.olen →
    (∃ t, exec (.matchTok d l b) s = .next t ∧ t.status = s.status ∧ t.cause = s.cause) ∧
    (∃ t, exec (.matchEnd d l) s = .next t ∧ t.status = s.status ∧ t.cause = s.cause))

/-- R133: a token whose distance is negative or above 8192 raises ILLEGAL_TOKEN before it has any effect on the output;
raising it is all the token does. -/
def Obligations.TokensOutsideTheRangeRaise : Prop :=
  ∀ (d : Dist) (l b : Byte) (s : State), d.toInt < 0 ∨ 8192 < d.toInt →
    ∃ t, exec (.illegal d l b) s = .next t ∧ DecodeRaised .illegalToken s t ∧ t.dec.cur = s.dec.cur

/-- R98: with no token left DECODE completes: OBUF.LEN is the cursor, LENMIS says whether it differs from
`original_length`, STATUS is DONE, all else stays. -/
def Obligations.DecodeCompletesWithLengthAndFlag : Prop :=
  ∀ s : State, running .decode s = true → s.dec.tcnt ≤ s.dec.ti →
    exec .decode s = .next { s with
      obufLen := some s.dec.cur, lenmis := decide (s.dec.cur ≠ s.dec.olen), status := .done }

/-- R92: a step of DECODE on a token either ends the command in ERROR or leaves it running at the next token, with
TI one higher, its stream and lengths as they were; no token jumps or skips. -/
def Obligations.TokensRunInOrder : Prop :=
  ∀ s t : State, running .decode s = true → s.dec.ti < s.dec.tcnt → step s = .next t →
    t.status = .error ∨
    (running .decode t = true ∧ t.dec.ti = s.dec.ti + 1 ∧ t.dec.tcnt = s.dec.tcnt ∧
      t.dec.olen = s.dec.olen ∧ t.tbuf = s.tbuf ∧ s.dec.cur ≤ t.dec.cur)

/-! ### SERIALIZE -/

/-- 42_serializer.md, the header: SERIALIZE's first pass writes TBUF.OLEN to PBUF[0..3] and the token count to PBUF[4..7],
each most significant byte first, and nothing else but its phase, which is the model's (DEDUCED, log entry 11). -/
def Obligations.SerializeWritesTheHeader : Prop :=
  ∀ (s : State) (olen : Nat), running .serialize s = true → s.phase = .header → s.tbufOlen = some olen →
    ∃ t, exec .serialize s = .next t ∧ t = { s with pbuf := t.pbuf, phase := .body } ∧
      (∀ j, j < 4 → memGet t.pbuf j = some (BitVec.ofNat 8 (olen / 256 ^ (3 - j)))) ∧
      (∀ j, j < 4 → memGet t.pbuf (4 + j) = some (BitVec.ofNat 8 (s.ser.tcnt / 256 ^ (3 - j)))) ∧
      SameOutside s.pbuf t.pbuf 0 8

/-- R112: one pass of SERIALIZE writes the four bytes of the token word at TI, whatever its fields, at
`8 + 4 × TI`, most significant first, and moves to the next. -/
def Obligations.SerializeWritesATokenUnchanged : Prop :=
  ∀ (s : State) (w : TokWord), running .serialize s = true → s.phase = .body → s.ser.ti < s.ser.tcnt →
    memGet s.tbuf s.ser.ti = some w →
    ∃ t, exec .serialize s = .next t ∧
      t = { s with pbuf := t.pbuf, ser := { s.ser with ti := s.ser.ti + 1 } } ∧
      (∀ j, j < 4 → memGet t.pbuf (8 + 4 * s.ser.ti + j) = some (BitVec.ofNat 8 (w.toNat / 256 ^ (3 - j)))) ∧
      SameOutside s.pbuf t.pbuf (8 + 4 * s.ser.ti) (12 + 4 * s.ser.ti)

/-- R113: with no token left SERIALIZE completes: PBUF.PLEN is `8 + 4 × TCNT`, computed exactly, STATUS is DONE, and
all else, TBUF included, stays. -/
def Obligations.SerializeCompletesWithTheSize : Prop :=
  ∀ s : State, running .serialize s = true → s.phase = .body → s.ser.tcnt ≤ s.ser.ti →
    exec .serialize s = .next { s with pbufPlen := some (8 + 4 * s.ser.tcnt), status := .done }

/-- R110: SERIALIZE raises nothing, whatever TBUF holds: no pass ends in ERROR. -/
def Obligations.SerializeNeverRaises : Prop :=
  ∀ s t : State, running .serialize s = true → exec .serialize s = .next t →
    t.status ≠ .error ∧ t.cause = s.cause ∧ t.info = s.info

/-! ### DESERIALIZE and the header -/

/-- 43_deserializer.md, the validation: the header record is checked in this order and by these numbers, and a header
that passes all four is not rejected. A PBUF too short fails check 1 whatever its cells hold. That the record is an
instruction, with check 1 in its meaning, is the model's choice (log entry 18), and the phase is the model's (DEDUCED,
log entry 11). -/
def Obligations.HeaderChecksInOrder : Prop :=
  (∀ (s : State) (olen tcnt : BitVec 32) (plen : Nat), s.pbufPlen = some plen →
    ∃ t, exec (.stream olen tcnt) s = .next t ∧
      (if plen < 8 then FormatRaised 1 s t
       else if olen.toInt < 0 ∨ (s.cfg.nMax : Int) < olen.toInt then FormatRaised 2 s t
       else if tcnt.toInt < 0 ∨ (s.cfg.nMax : Int) < tcnt.toInt then FormatRaised 3 s t
       else if (plen : Int) ≠ 8 + 4 * tcnt.toInt then FormatRaised 4 s t
       else t = { s with phase := .body, des := { ti := 0, olen := olen, tcnt := tcnt } })) ∧
  (∀ (s : State) (plen : Nat), running .deserialize s = true → s.phase = .header → s.pbufPlen = some plen →
    plen < 8 → ∃ t, exec .deserialize s = .next t ∧ FormatRaised 1 s t)

/-- 43_deserializer.md, the header read: DESERIALIZE reads the header from PBUF, each field from four bytes, most
significant first, and a header that passes the four checks is latched: the tokens are next, and nothing else changes.
That the step executes the record as an instruction is the model's choice (log entry 18), and the phase is the model's
(DEDUCED, log entry 11). -/
def Obligations.ValidHeadersAreLatched : Prop :=
  (∀ (s : State) (b0 b1 b2 b3 b4 b5 b6 b7 : Byte) (plen : Nat), running .deserialize s = true →
    s.phase = .header → s.pbufPlen = some plen → 8 ≤ plen →
    memRead s.pbuf 0 8 = some [b0, b1, b2, b3, b4, b5, b6, b7] →
    ∃ olen tcnt : BitVec 32, step s = exec (.stream olen tcnt) s ∧
      olen.toNat = 16777216 * b0.toNat + 65536 * b1.toNat + 256 * b2.toNat + b3.toNat ∧
      tcnt.toNat = 16777216 * b4.toNat + 65536 * b5.toNat + 256 * b6.toNat + b7.toNat) ∧
  (∀ (s : State) (olen tcnt : BitVec 32) (plen : Nat), s.pbufPlen = some plen →
    0 ≤ olen.toInt → olen.toInt ≤ s.cfg.nMax → 0 ≤ tcnt.toInt → tcnt.toInt ≤ s.cfg.nMax →
    (plen : Int) = 8 + 4 * tcnt.toInt →
    exec (.stream olen tcnt) s = .next { s with
      phase := .body, des := { ti := 0, olen := olen, tcnt := tcnt } })

/-- R123: one pass of DESERIALIZE assembles the token at TI from its four bytes, most significant first, whatever its
fields, and moves to the next. -/
def Obligations.DeserializeReadsATokenUnchanged : Prop :=
  ∀ (s : State) (b0 b1 b2 b3 : Byte), running .deserialize s = true → s.phase = .body →
    (s.des.ti : Int) < s.des.tcnt.toInt →
    memRead s.pbuf (8 + 4 * s.des.ti) 4 = some [b0, b1, b2, b3] →
    ∃ t w, exec .deserialize s = .next t ∧
      t = { s with tbuf := t.tbuf, des := { s.des with ti := s.des.ti + 1 } } ∧
      memGet t.tbuf s.des.ti = some w ∧
      w.toNat = 16777216 * b0.toNat + 65536 * b1.toNat + 256 * b2.toNat + b3.toNat ∧
      SameOutside s.tbuf t.tbuf s.des.ti (s.des.ti + 1)

/-- R124: with no token left DESERIALIZE completes: TBUF.TCNT and TBUF.OLEN take the header's values, STATUS is DONE,
and all else, PBUF included, stays. -/
def Obligations.DeserializeCompletesWithTheHeader : Prop :=
  ∀ (s : State) (olen tcnt : Nat), running .deserialize s = true → s.phase = .body →
    s.des.olen.toInt = olen → s.des.tcnt.toInt = tcnt → tcnt ≤ s.des.ti →
    exec .deserialize s = .next { s with
      tbufTcnt := some tcnt, tbufOlen := some olen, status := .done }

/-! ### Control registers, errors and ownership -/

/-- R18: STATUS has the codes 0 to 3; it goes to BUSY on a CMD write only, from BUSY to DONE or ERROR only, and never
back to IDLE. -/
def Obligations.StatusMovesOnlyByItsRule : Prop :=
  (statusCode .idle = 0 ∧ statusCode .busy = 1 ∧ statusCode .done = 2 ∧ statusCode .error = 3) ∧
  ∀ s t : State, step s = .next t →
    (s.status = .busy → t.status = .busy ∨ t.status = .done ∨ t.status = .error) ∧
    (s.status ≠ .busy → t.status = s.status ∨
      (t.status = .busy ∧ ∃ c rest, s.host = .writeCmd c :: rest)) ∧
    (s.status ≠ .busy → (∃ c rest, s.host = .writeCmd c :: rest) → t.status = .busy)

/-- R130: the causes have the codes 0 to 5; each command ends in ERROR only with the causes of its own row of the table
and with the INFO the row records; SERIALIZE never does. -/
def Obligations.CausesComeFromTheirUnits : Prop :=
  (causeCode .none = 0 ∧ causeCode .incompressible = 1 ∧ causeCode .format = 2 ∧ causeCode .illegalToken = 3 ∧
    causeCode .refBeforeStart = 4 ∧ causeCode .outputOverrun = 5) ∧
  ∀ s t : State, s.status = .busy → step s = .next t → t.status = .error →
    (commandOf s.cmd = .encode ∧ t.cause = .incompressible ∧ t.info = s.enc.p) ∨
    (commandOf s.cmd = .decode ∧ t.info = s.dec.ti ∧
      (t.cause = .illegalToken ∨ t.cause = .refBeforeStart ∨ t.cause = .outputOverrun)) ∨
    (commandOf s.cmd = .deserialize ∧ t.cause = .format ∧ 1 ≤ t.info ∧ t.info ≤ 4)

/-- R138: of several faults a token has, DECODE reports the first in the order ILLEGAL_TOKEN, REF_BEFORE_START,
OUTPUT_OVERRUN, and a token that has none does not end the command. -/
def Obligations.DecoderReportsTheFirstFault : Prop :=
  ∀ (s : State) (w : TokWord), running .decode s = true → DestinationWritten s → s.dec.cur ≤ s.dec.olen →
    s.dec.ti < s.dec.tcnt → memGet s.tbuf s.dec.ti = some w →
    ∃ t, step s = .next t ∧
      if (distField w).toInt < 0 ∨ 8192 < (distField w).toInt then t.status = .error ∧ t.cause = .illegalToken
      else if (s.dec.cur : Int) < (distField w).toInt then t.status = .error ∧ t.cause = .refBeforeStart
      else if s.dec.olen < s.dec.cur + (if distField w = 0 then 1 else (lenField w).toNat) then
        t.status = .error ∧ t.cause = .outputOverrun
      else t.status = .busy

/-- R139, R140: a step that ends the running command in ERROR leaves its destination without value and every other
buffer and length, its source among them, as it was. -/
def Obligations.ErrorsInvalidateOnlyTheDestination : Prop :=
  ∀ s t : State, s.status = .busy → step s = .next t → t.status = .error →
    DestinationWithoutValue (commandOf s.cmd) t ∧ OnlyDestinationDiffers (commandOf s.cmd) s t

/-- R24: while a command runs, no step writes a buffer or length register but the command's destination. -/
def Obligations.RunningCommandsWriteOnlyTheirDestination : Prop :=
  ∀ s t : State, s.status = .busy → step s = .next t → OnlyDestinationDiffers (commandOf s.cmd) s t

/-- R19: LENMIS is set only by DECODE's completion with a cursor that is not `original_length`; CAUSE, INFO and FLAGS keep
their values while no command runs, until the next CMD write, which clears them. -/
def Obligations.ControlRegistersKeepUntilTheNextCommand : Prop :=
  ∀ s t : State, step s = .next t →
    (t.lenmis = true → s.lenmis = false →
      running .decode s = true ∧ s.dec.tcnt ≤ s.dec.ti ∧ s.dec.cur ≠ s.dec.olen) ∧
    (s.status ≠ .busy → (∀ c rest, s.host ≠ .writeCmd c :: rest) →
      t.cause = s.cause ∧ t.info = s.info ∧ t.lenmis = s.lenmis) ∧
    (s.status ≠ .busy → (∃ c rest, s.host = .writeCmd c :: rest) →
      t.cause = .none ∧ t.info = 0 ∧ t.lenmis = false)

/-- R6: no step changes a parameter. -/
def Obligations.ParametersNeverChange : Prop :=
  ∀ s t : State, step s = .next t → t.cfg = s.cfg

/-! ### The host -/

/-- 00_scope.md R8, 70_reset_and_hazards.md R166: while a command runs the host makes no move (the list of moves is the
model's own, log entry 6), and otherwise a step uses up at most its next one and no unit register changes but by a
CMD write. -/
def Obligations.HostMovesOnlyWhileNoCommandRuns : Prop :=
  ∀ s t : State, step s = .next t →
    (s.status = .busy → t.host = s.host ∧ t.hostIn = s.hostIn) ∧
    (s.status ≠ .busy → t.host = s.host.tail) ∧
    (s.status ≠ .busy → (∀ c rest, s.host ≠ .writeCmd c :: rest) →
      t.enc = s.enc ∧ t.dec = s.dec ∧ t.ser = s.ser ∧ t.des = s.des ∧ t.status = s.status)

/-- 70_reset_and_hazards.md R162: a byte, a token word or a length the host writes is what it reads back at its next move,
no other cell of any buffer and no other length register changes, and the two moves change nothing else but the host's
own fields (log entry 6; the bounds on what the host may write are log entry 15 for a cell and 21 for OBUF.LEN). -/
def Obligations.HostReadsBackWhatItWrote : Prop :=
  (∀ (s : State) (sp : ByteSpace) (a n : Nat) (v : Byte) (rest : List HostMove), s.status ≠ .busy →
    s.host = .writeByte sp a v :: .readByte sp a :: rest → s.len (lengthOf sp) = some n → a < n →
    a < byteCapacity s.cfg sp →
    ∃ t, runs 2 s = .next t ∧
      t = { s.setBytes sp (t.bytes sp) with host := rest, hostIn := v.toNat } ∧
      memGet (t.bytes sp) a = some v ∧ SameOutside (s.bytes sp) (t.bytes sp) a (a + 1)) ∧
  (∀ (s : State) (a n : Nat) (w : TokWord) (rest : List HostMove), s.status ≠ .busy →
    s.host = .writeToken a w :: .readToken a :: rest → s.tbufTcnt = some n → a < n → a < s.cfg.nMax →
    ∃ t, runs 2 s = .next t ∧
      t = { s with tbuf := t.tbuf, host := rest, hostIn := w.toNat } ∧
      memGet t.tbuf a = some w ∧ SameOutside s.tbuf t.tbuf a (a + 1)) ∧
  (∀ (s : State) (r : LenReg) (n : Nat) (rest : List HostMove), s.status ≠ .busy →
    s.host = .writeLen r n :: .readLen r :: rest → n ≤ lenLimit s.cfg r →
    ∃ t, runs 2 s = .next t ∧ t = { s.setLen r n with host := rest, hostIn := n } ∧
      t.len r = some n ∧ ∀ r', r' ≠ r → t.len r' = s.len r')

/-- 10_state.md section 7 (R28, R139): a host read of a cell or a length that holds no value is a fault, never zero. -/
def Obligations.HostReadsOfNoValueFault : Prop :=
  (∀ (s : State) (sp : ByteSpace) (a : Nat) (rest : List HostMove), s.status ≠ .busy →
    s.host = .readByte sp a :: rest → memGet (s.bytes sp) a = none → ∃ f, step s = .fault f) ∧
  (∀ (s : State) (a : Nat) (rest : List HostMove), s.status ≠ .busy → s.host = .readToken a :: rest →
    memGet s.tbuf a = none → ∃ f, step s = .fault f) ∧
  (∀ (s : State) (r : LenReg) (rest : List HostMove), s.status ≠ .busy → s.host = .readLen r :: rest →
    s.len r = none → step s = .fault (.noLength r))

/-! ### Invariants -/

/-- The invariant at reset: every buffer is canonical and empty, every register in range, CAUSE, INFO and LENMIS say
nothing (the zeros are the model's, log entries 1 and 2). -/
def Obligations.InvariantsHoldAtReset : Prop :=
  MemoriesCanonical State.reset ∧ BuffersInSpace State.reset ∧ RegistersInRange State.reset ∧
  ControlConsistent State.reset

/-- 20_memory.md: every step keeps the four buffers in canonical form (the form is the model's, log entry 3). -/
def Obligations.BuffersStayCanonical : Prop :=
  ∀ s t : State, MemoriesCanonical s → step s = .next t → MemoriesCanonical t

/-- R16: no register overflows: every step keeps every register in the range of its table, whatever the host does (for
OBUF.LEN, which R22 gives no range, the bound N_MAX on a host write is the model's, log entry 21). -/
def Obligations.RegistersStayInRange : Prop :=
  ∀ s t : State, RegistersInRange s → step s = .next t → RegistersInRange t

/-- 10_state.md section 5 (R20 to R23), 20_memory.md R35: every step keeps the cells that hold values inside their
address spaces (what the host may write lies below a bound of the model's, log entry 15). -/
def Obligations.BuffersStayInTheirSpaces : Prop :=
  ∀ s t : State, RegistersInRange s → BuffersInSpace s → step s = .next t → BuffersInSpace t

/-- 10_state.md section 4 (R18, R19): every step keeps CAUSE and INFO zero outside ERROR, CAUSE nonzero in it, and
LENMIS to a DECODE that ended DONE. -/
def Obligations.ControlStaysConsistent : Prop :=
  ∀ s t : State, ControlConsistent s → step s = .next t → ControlConsistent t

/-- 10_state.md sections 7 and 8, 20_memory.md R35: every step keeps it that a running command has written exactly the
part of its destination below its write index, and that the destination's lengths hold no value until it ends. -/
def Obligations.RunningCommandsWriteTheirDestinationInOrder : Prop :=
  ∀ s t : State, (s.status = .busy → DestinationWritten s) → step s = .next t →
    (t.status = .busy → DestinationWritten t)

/-- 70_reset_and_hazards.md R172 and 93_implementation_defined.md (its last sentence of part 1): a running command
whose source holds values takes a next step, which is no fault and no refusal, and can go on from there. -/
def Obligations.RunningCommandsProgress : Prop :=
  ∀ s : State, s.status = .busy → RunReady s → RegistersInRange s →
    ∃ t, step s = .next t ∧ (t.status = .busy → RunReady t)

/-- R171: a running command ends, in DONE or ERROR, within its bound and one completion step more. -/
def Obligations.CommandsEndWithinTheirBound : Prop :=
  ∀ s : State, s.status = .busy → RunReady s → RegistersInRange s →
    ∃ k t, k ≤ remaining s + 1 ∧ runs k s = .next t ∧ (t.status = .done ∨ t.status = .error)

/-- R11: nothing a unit's registers held before a command, nor its temporaries before a token or a position, is ever
seen: two states that differ in these alone (and in CMD and the phase where no command has them) take steps that differ
in these alone. -/
def Obligations.UnitStateIsNeverObserved : Prop :=
  ∀ s t : State, observable s = observable t → SameOutcome (step s) (step t)

/-! ### Whole commands -/

/-- 43_deserializer.md section 3 (R125): a stream serialized and deserialized again is the same stream. -/
def Obligations.SerializeThenDeserializeIsIdentity : Prop :=
  ∀ (s : State) (tcnt olen : Nat), s.status ≠ .busy → s.tbufTcnt = some tcnt → s.tbufOlen = some olen →
    tcnt ≤ s.cfg.nMax → olen ≤ s.cfg.nMax → s.cfg.nMax ≤ 2147483647 → HoldsBelow s.tbuf tcnt →
    ∃ j t k u, runs j (issue .serialize s) = .next t ∧ t.host = [] ∧ t.status = .done ∧
      runs k (issue .deserialize t) = .next u ∧ u.host = [] ∧ u.status = .done ∧
      u.tbufTcnt = some tcnt ∧ u.tbufOlen = some olen ∧
      (∀ a, a < tcnt → memGet u.tbuf a = memGet s.tbuf a)

/-- 43_deserializer.md section 3 (R125, its converse, marked derived): persisted bytes that DESERIALIZE accepts are
what SERIALIZE makes of the stream again. -/
def Obligations.DeserializeThenSerializeIsIdentity : Prop :=
  ∀ (s t : State) (plen j : Nat), s.status ≠ .busy → s.pbufPlen = some plen → HoldsBelow s.pbuf plen →
    runs j (issue .deserialize s) = .next t → t.status = .done → t.host = [] →
    ∃ k u, runs k (issue .serialize t) = .next u ∧ u.host = [] ∧ u.status = .done ∧ u.pbufPlen = some plen ∧
      (∀ a, a < plen → memGet u.pbuf a = memGet s.pbuf a)

/-- 41_decoder.md section 5 (R99): ENCODE of an input ends, and what it makes, if it ends DONE, DECODE makes the input
again, with LENMIS 0: under the policy `fixed` for every input, and under `faithful` for every input whose encoding has
no match that is followed by a zero byte of the input. -/
def Obligations.EncodeThenDecodeIsIdentity : Prop :=
  ∀ (s : State) (n : Nat), s.status ≠ .busy → s.ibufN = some n → n ≤ s.cfg.nMax → HoldsBelow s.ibuf n →
    ∃ j t, runs j (issue .encode s) = .next t ∧ t.host = [] ∧
      ((t.status = .error ∧ t.cause = .incompressible) ∨
       (t.status = .done ∧
        (s.cfg.zeroPolicy = .fixed ∨ ¬ LossyZero t →
          ∃ k u, runs k (issue .decode t) = .next u ∧ u.host = [] ∧ u.status = .done ∧ u.lenmis = false ∧
            u.obufLen = some n ∧ (∀ a, a < n → memGet u.obuf a = memGet s.ibuf a))))

/-- 41_decoder.md section 5 (R99's converse and R100, marked derived): under `faithful`, what ENCODE makes of an input
whose encoding has a match followed by a zero byte of the input is not decoded to the input: DECODE raises
REF_BEFORE_START, or ends DONE with fewer bytes and LENMIS 1. -/
def Obligations.LossyZerosShortenTheOutput : Prop :=
  ∀ (s t : State) (n j : Nat), s.status ≠ .busy → s.ibufN = some n → n ≤ s.cfg.nMax → HoldsBelow s.ibuf n →
    s.cfg.zeroPolicy = .faithful → runs j (issue .encode s) = .next t → t.host = [] → t.status = .done →
    LossyZero t →
    ∃ k u, runs k (issue .decode t) = .next u ∧ u.host = [] ∧
      ((u.status = .error ∧ u.cause = .refBeforeStart) ∨
       (u.status = .done ∧ u.lenmis = true ∧ ∃ m, u.obufLen = some m ∧ m < n))

/-! ### What the host reads -/

/-- 10_state.md section 4 (R18, R19), 60_exceptions.md section 1 (R130), 70_reset_and_hazards.md section 2 (R162): a host
read gives the byte or token word of a cell below the length, the value of a length register, or the code of STATUS or
CAUSE, INFO, or FLAGS with LENMIS as bit 0, and changes nothing but the host's own fields. The moves are log entry 6,
the bound of the cells log entry 15. -/
def Obligations.HostReadsGiveWhatIsThere : Prop :=
  (∀ (s : State) (sp : ByteSpace) (a n : Nat) (v : Byte) (rest : List HostMove), s.status ≠ .busy →
    s.host = .readByte sp a :: rest → s.len (lengthOf sp) = some n → a < n → memGet (s.bytes sp) a = some v →
    step s = .next { s with host := rest, hostIn := v.toNat }) ∧
  (∀ (s : State) (a n : Nat) (w : TokWord) (rest : List HostMove), s.status ≠ .busy →
    s.host = .readToken a :: rest → s.tbufTcnt = some n → a < n → memGet s.tbuf a = some w →
    step s = .next { s with host := rest, hostIn := w.toNat }) ∧
  (∀ (s : State) (r : LenReg) (n : Nat) (rest : List HostMove), s.status ≠ .busy →
    s.host = .readLen r :: rest → s.len r = some n → step s = .next { s with host := rest, hostIn := n }) ∧
  (∀ (s : State) (r : Csr) (rest : List HostMove), s.status ≠ .busy → s.host = .readCsr r :: rest →
    ∃ v, step s = .next { s with host := rest, hostIn := v } ∧
      (r = .status → (s.status = .idle → v = 0) ∧ (s.status = .done → v = 2) ∧ (s.status = .error → v = 3)) ∧
      (r = .cause → (s.cause = .none → v = 0) ∧ (s.cause = .incompressible → v = 1) ∧ (s.cause = .format → v = 2) ∧
        (s.cause = .illegalToken → v = 3) ∧ (s.cause = .refBeforeStart → v = 4) ∧
        (s.cause = .outputOverrun → v = 5)) ∧
      (r = .info → v = s.info) ∧
      (r = .flags → (s.lenmis = true → v = 1) ∧ (s.lenmis = false → v = 0)))
end

