-- ==== Sys2Proof/Laws/Bits.lean ====
section
/-! SUPPORT. Token words and byte order as numbers, so that later proofs are linear arithmetic. -/

namespace Sys2Proof

/-- Appending bits is adding below a multiple. -/
theorem toNat_append_eq {m n : Nat} (x : BitVec m) (y : BitVec n) :
    (x ++ y).toNat = x.toNat * 2 ^ n + y.toNat := by
  rw [BitVec.toNat_append, ← Nat.shiftLeft_add_eq_or_of_lt y.isLt, Nat.shiftLeft_eq]

/-- A byte cut out of a pattern. -/
theorem toNat_extract {w : Nat} (v : BitVec w) (lo n : Nat) :
    (v.extractLsb' lo n).toNat = v.toNat / 2 ^ lo % 2 ^ n := by
  rw [BitVec.extractLsb'_toNat, Nat.shiftRight_eq_div_pow]

/-- R52: the word as a number. -/
theorem toNat_tokWord (d : Dist) (l b : Byte) :
    (tokWord d l b).toNat = d.toNat * 65536 + l.toNat * 256 + b.toNat := by
  have h : (tokWord d l b).toNat = ((d ++ l) ++ b).toNat := rfl
  rw [h, toNat_append_eq, toNat_append_eq]
  omega

/-- R53, R54, R55: the fields as numbers. -/
theorem toNat_distField (w : TokWord) : (distField w).toNat = w.toNat / 65536 := by
  have := w.isLt
  rw [distField, toNat_extract]
  omega

theorem toNat_lenField (w : TokWord) : (lenField w).toNat = w.toNat / 256 % 256 := by
  rw [lenField, toNat_extract]
  norm_num

theorem toNat_byteField (w : TokWord) : (byteField w).toNat = w.toNat % 256 := by
  rw [byteField, toNat_extract]
  simp

/-- R53: the signed distance of a pattern below 2^15 is its number, of the others negative. -/
theorem toInt_dist (d : Dist) :
    d.toInt = if d.toNat < 32768 then (d.toNat : Int) else (d.toNat : Int) - 65536 := by
  rw [BitVec.toInt_eq_toNat_cond]
  have := d.isLt
  split <;> split <;> omega

end Sys2Proof
end

