-- ==== Sys2Proof/Laws/Mem.lean ====
section
/-! SUPPORT. The laws of cells: a read after a write, and the canonical form, which every write keeps. -/

namespace Sys2Proof.Machine

variable {α : Type}

@[simp] theorem memGet_nil (a : Nat) : memGet ([] : List (Nat × α)) a = none := rfl

theorem memGet_memSet (m : List (Nat × α)) (a x : Nat) (v : α) :
    memGet (memSet m a v) x = if x = a then some v else memGet m x := by
  induction m with
  | nil => simp [memSet, memGet]
  | cons c m ih =>
    obtain ⟨y, u⟩ := c
    simp only [memSet]
    split
    · simp only [memGet]
    · split
      · next h => subst h; simp only [memGet]; split <;> rfl
      · next h1 h2 =>
        simp only [memGet, ih]
        split
        · next h => subst h; simp [Ne.symm h2]
        · rfl

@[simp] theorem memGet_memSet_same (m : List (Nat × α)) (a : Nat) (v : α) :
    memGet (memSet m a v) a = some v := by simp [memGet_memSet]

theorem memGet_memSet_other (m : List (Nat × α)) {a x : Nat} (v : α) (h : x ≠ a) :
    memGet (memSet m a v) x = memGet m x := by simp [memGet_memSet, h]

@[simp] theorem memWrite_nil (m : List (Nat × α)) (a : Nat) : memWrite m a [] = m := rfl

@[simp] theorem memWrite_cons (m : List (Nat × α)) (a : Nat) (v : α) (vs : List α) :
    memWrite m a (v :: vs) = memWrite (memSet m a v) (a + 1) vs := rfl

/-- A write of several cells changes exactly the cells from `a` on, as many as there are values. -/
theorem memGet_memWrite (m : List (Nat × α)) (a x : Nat) (vs : List α) :
    memGet (memWrite m a vs) x = if a ≤ x ∧ x < a + vs.length then vs[x - a]? else memGet m x := by
  induction vs generalizing m a with
  | nil => simp
  | cons v vs ih =>
    rw [memWrite_cons, ih, memGet_memSet]
    by_cases h : x = a
    · subst h; simp
    · by_cases h2 : a + 1 ≤ x ∧ x < a + 1 + vs.length
      · have : x - a = (x - (a + 1)) + 1 := by omega
        simp only [h2, and_self, if_true, List.length_cons]
        rw [if_pos (by omega), this, List.getElem?_cons_succ]
      · rw [if_neg h2, if_neg h, if_neg (by simp only [List.length_cons]; omega)]

/-- A read of several cells answers exactly when every cell holds a value, and answers those values. -/
theorem memRead_eq_some (m : List (Nat × α)) (a n : Nat) (vs : List α) :
    memRead m a n = some vs ↔ vs.length = n ∧ ∀ j, j < n → memGet m (a + j) = vs[j]? := by
  induction n generalizing a vs with
  | zero => cases vs <;> simp [memRead]
  | succ n ih =>
    constructor
    · intro h
      simp only [memRead] at h
      split at h
      · next v ws hv hw =>
        cases h
        obtain ⟨hl, hg⟩ := (ih _ _).1 hw
        refine ⟨by simp [hl], fun j hj => ?_⟩
        cases j with
        | zero => simpa using hv
        | succ j => simpa [Nat.add_assoc, Nat.add_comm 1] using hg j (by omega)
      · cases h
    · rintro ⟨hl, hg⟩
      cases vs with
      | nil => simp at hl
      | cons v vs =>
        have hv : memGet m a = some v := by simpa using hg 0 (by omega)
        have hw : memRead m (a + 1) n = some vs := by
          refine (ih _ _).2 ⟨by simpa using hl, fun j hj => ?_⟩
          simpa [Nat.add_assoc, Nat.add_comm 1] using hg (j + 1) (by omega)
        simp [memRead, hv, hw]

theorem memRead_length {m : List (Nat × α)} {a n : Nat} {vs : List α} (h : memRead m a n = some vs) :
    vs.length = n := ((memRead_eq_some m a n vs).1 h).1

/-- A read of cells that all hold a value answers. -/
theorem memRead_isSome (m : List (Nat × α)) (a n : Nat) (h : ∀ j, j < n → memGet m (a + j) ≠ none) :
    ∃ vs, memRead m a n = some vs := by
  induction n generalizing a with
  | zero => exact ⟨[], rfl⟩
  | succ n ih =>
    obtain ⟨v, hv⟩ := Option.ne_none_iff_exists'.1 (h 0 (by omega))
    obtain ⟨vs, hvs⟩ := ih (a + 1) fun j hj => by
      simpa [Nat.add_assoc, Nat.add_comm 1] using h (j + 1) (by omega)
    rw [Nat.add_zero] at hv
    exact ⟨v :: vs, by simp [memRead, hv, hvs]⟩

/-! ### The canonical form -/

@[simp] theorem wf_nil : Memory.wf ([] : List (Nat × α)) = true := rfl

/-- The canonical form of a list with a head: the head is below every later address. -/
theorem wf_cons (a : Nat) (v : α) (m : List (Nat × α)) :
    Memory.wf ((a, v) :: m) = true ↔ (∀ c ∈ m, a < c.1) ∧ Memory.wf m = true := by
  induction m generalizing a v with
  | nil => simp [Memory.wf]
  | cons c m ih =>
    obtain ⟨y, u⟩ := c
    simp only [Memory.wf, Bool.and_eq_true, decide_eq_true_eq, List.mem_cons, forall_eq_or_imp]
    constructor
    · rintro ⟨h, hw⟩
      exact ⟨⟨h, fun c hc => Nat.lt_trans h (((ih y u).1 hw).1 c hc)⟩, hw⟩
    · rintro ⟨⟨h, -⟩, hw⟩
      exact ⟨h, hw⟩

theorem mem_memSet {m : List (Nat × α)} {a : Nat} {v : α} {c : Nat × α} (h : c ∈ memSet m a v) :
    c = (a, v) ∨ c ∈ m := by
  induction m with
  | nil => simpa [memSet] using h
  | cons d m ih =>
    obtain ⟨y, u⟩ := d
    simp only [memSet] at h
    split at h
    · simpa using h
    · split at h
      · rcases List.mem_cons.1 h with h | h
        · exact .inl h
        · exact .inr (List.mem_cons_of_mem _ h)
      · rcases List.mem_cons.1 h with h | h
        · exact .inr (h ▸ List.mem_cons_self)
        · exact (ih h).imp id (List.mem_cons_of_mem _)

theorem wf_memSet {m : List (Nat × α)} (h : Memory.wf m = true) (a : Nat) (v : α) :
    Memory.wf (memSet m a v) = true := by
  induction m with
  | nil => rfl
  | cons c m ih =>
    obtain ⟨y, u⟩ := c
    have hw := (wf_cons y u m).1 h
    simp only [memSet]
    split
    · next hay =>
      refine (wf_cons _ _ _).2 ⟨fun c hc => ?_, h⟩
      rcases List.mem_cons.1 hc with rfl | hc
      · exact hay
      · exact Nat.lt_trans hay (hw.1 c hc)
    · split
      · next hay => subst hay; exact (wf_cons _ _ _).2 hw
      · next h1 h2 =>
        refine (wf_cons _ _ _).2 ⟨fun c hc => ?_, ih hw.2⟩
        rcases mem_memSet hc with rfl | hc
        · show y < a; omega
        · exact hw.1 c hc

theorem wf_memWrite {m : List (Nat × α)} (h : Memory.wf m = true) (a : Nat) (vs : List α) :
    Memory.wf (memWrite m a vs) = true := by
  induction vs generalizing m a with
  | nil => exact h
  | cons v vs ih => exact ih (wf_memSet h a v) (a + 1)

/-- A cell holds a value exactly when its address is listed. -/
theorem memGet_ne_none_iff (m : List (Nat × α)) (a : Nat) : memGet m a ≠ none ↔ a ∈ m.map Prod.fst := by
  induction m with
  | nil => simp
  | cons c m ih =>
    obtain ⟨x, v⟩ := c
    by_cases h : a = x
    · simp [memGet, h]
    · simp only [memGet, List.map_cons, List.mem_cons, h, false_or]
      exact ih

end Sys2Proof.Machine
end

