-- ==== Sys2Proof/Laws/Operands.lean ====
section
/-! SUPPORT. What the operands' loops can do: one lemma per way a copy ends, and the compare loop of the search. -/

namespace Sys2Proof.Machine

/-! ### The decoder's copy -/

/-- A copy that moved all its bytes: the cursor went up by their number and stayed within the output, the cells below
the old cursor and from the new one on are as they were, every new cell holds a value, and each new cell equals the
cell it was read from, as that stands at the end. -/
theorem copyBytes_moved {olen start left k kOld cur cur' k' : Nat} {m m' : ByteMem}
    (h : copyBytes olen start left k kOld m cur = .moved m' cur' k') :
    cur' = cur + left ∧ (left = 0 ∨ cur + left ≤ olen) ∧ k' = (if left = 0 then kOld else k + left - 1) ∧
      (∀ a, a < cur ∨ cur + left ≤ a → memGet m' a = memGet m a) ∧
      (∀ j, j < left → memGet m' (cur + j) ≠ none) ∧
      (start + k < cur → ∀ j, j < left → memGet m' (cur + j) = memGet m' (start + k + j)) := by
  induction left generalizing k kOld m cur with
  | zero =>
    simp only [copyBytes, CopyEnd.moved.injEq] at h
    obtain ⟨rfl, rfl, rfl⟩ := h
    simp
  | succ left ih =>
    simp only [copyBytes] at h
    split at h
    · cases h
    · next hfit =>
      split at h
      · next v hv =>
        obtain ⟨hc, hin, hk, hold, hnew, heq⟩ := ih h
        have hkeep : ∀ a, a < cur → memGet m' a = memGet m a := fun a ha => by
          rw [hold a (by omega), memGet_memSet_other _ _ (by omega)]
        have hcur : memGet m' cur = some v := by rw [hold cur (by omega), memGet_memSet_same]
        refine ⟨by omega, by omega, ?_, fun a ha => ?_, fun j hj => ?_, fun hlt j hj => ?_⟩
        · rw [hk]
          cases left with
          | zero => simp
          | succ n => simp only [Nat.succ_ne_zero, if_false]; simp; omega
        · rw [hold a (by omega), memGet_memSet_other _ _ (by omega)]
        · cases j with
          | zero => simp [hcur]
          | succ j => simpa [Nat.add_assoc, Nat.add_comm 1] using hnew j (by omega)
        · cases j with
          | zero => rw [Nat.add_zero, Nat.add_zero, hcur, hkeep _ hlt, hv]
          | succ j =>
            have := heq (by omega) j (by omega)
            simpa [Nat.add_assoc, Nat.add_comm 1] using this
      · cases h

/-- A copy that found no room: it stopped at the cursor that reached the output's capacity, with moves left to make. -/
theorem copyBytes_full {olen start left k kOld cur cur' k' : Nat} {m m' : ByteMem}
    (h : copyBytes olen start left k kOld m cur = .full m' cur' k') :
    olen ≤ cur' ∧ cur ≤ cur' ∧ cur' < cur + left ∧ k' = k + (cur' - cur) ∧ (cur < cur' → cur' ≤ olen) := by
  induction left generalizing k kOld m cur with
  | zero => simp [copyBytes] at h
  | succ left ih =>
    simp only [copyBytes] at h
    split at h
    · next hfull =>
      simp only [CopyEnd.full.injEq] at h
      obtain ⟨-, rfl, rfl⟩ := h
      omega
    · split at h
      · have := ih h; omega
      · cases h

/-- A copy that met a source cell with no value: that cell is one of the source's and was not written by this copy. -/
theorem copyBytes_absent {olen start left k kOld cur a : Nat} {m : ByteMem}
    (h : copyBytes olen start left k kOld m cur = .absent a) :
    start + k ≤ a ∧ a < start + k + left ∧ memGet m a = none := by
  induction left generalizing k kOld m cur with
  | zero => simp [copyBytes] at h
  | succ left ih =>
    simp only [copyBytes] at h
    split at h
    · cases h
    · split at h
      · next v hv =>
        obtain ⟨h1, h2, h3⟩ := ih h
        rw [memGet_memSet] at h3
        split at h3
        · cases h3
        · exact ⟨by omega, by omega, h3⟩
      · next hv =>
        simp only [CopyEnd.absent.injEq] at h
        subst h
        exact ⟨by omega, by omega, hv⟩

/-- A copy whose source cells below the cursor hold values ends by moving or by finding no room. -/
theorem copyBytes_not_absent {olen start left k kOld cur : Nat} {m : ByteMem} (hlt : start + k < cur ∨ left = 0)
    (hsrc : ∀ a, start + k ≤ a → a < cur → memGet m a ≠ none) (a : Nat) :
    copyBytes olen start left k kOld m cur ≠ .absent a := by
  induction left generalizing k kOld m cur with
  | zero => simp [copyBytes]
  | succ left ih =>
    simp only [copyBytes]
    split
    · simp
    · split
      · refine ih (.inl (by omega)) fun x hx hxc => ?_
        rw [memGet_memSet]
        split
        · simp
        · exact hsrc x (by omega) (by omega)
      · next hnone => exact absurd hnone (hsrc _ (Nat.le_refl _) (by omega))

/-- Where all the bytes fit, a copy of cells that hold values moves them all. -/
theorem copyBytes_fits {olen start left k kOld cur : Nat} {m : ByteMem} (hlt : start + k < cur ∨ left = 0)
    (hsrc : ∀ a, start + k ≤ a → a < cur → memGet m a ≠ none) (hfit : cur + left ≤ olen) :
    ∃ m' k', copyBytes olen start left k kOld m cur = .moved m' (cur + left) k' := by
  cases h : copyBytes olen start left k kOld m cur with
  | moved m' cur' k' => exact ⟨m', k', by rw [(copyBytes_moved h).1]⟩
  | full m' cur' k' => have := copyBytes_full h; omega
  | absent a => exact absurd h (copyBytes_not_absent hlt hsrc a)

/-- Where not all the bytes fit, a copy of cells that hold values finds no room. -/
theorem copyBytes_overruns {olen start left k kOld cur : Nat} {m : ByteMem} (hlt : start + k < cur ∨ left = 0)
    (hsrc : ∀ a, start + k ≤ a → a < cur → memGet m a ≠ none) (hleft : left ≠ 0) (hfit : olen < cur + left) :
    ∃ m' cur' k', copyBytes olen start left k kOld m cur = .full m' cur' k' := by
  cases h : copyBytes olen start left k kOld m cur with
  | moved m' cur' k' => have := (copyBytes_moved h).2.1; omega
  | full m' cur' k' => exact ⟨m', cur', k', rfl⟩
  | absent a => exact absurd h (copyBytes_not_absent hlt hsrc a)

/-- A copy keeps the canonical form. -/
theorem copyBytes_wf {olen start left k kOld cur cur' k' : Nat} {m m' : ByteMem} (hw : Memory.wf m = true)
    (h : copyBytes olen start left k kOld m cur = .moved m' cur' k') : Memory.wf m' = true := by
  induction left generalizing k kOld m cur with
  | zero =>
    simp only [copyBytes, CopyEnd.moved.injEq] at h
    exact h.1 ▸ hw
  | succ left ih =>
    simp only [copyBytes] at h
    split at h
    · cases h
    · split at h
      · exact ih (wf_memSet hw _ _) h
      · cases h

/-! ### The compare loop of the search -/

/-- R74: the window start is the natural difference, which does not go below zero. -/
theorem windowLo_eq (p : Nat) : windowLo p = p - 8192 := by
  unfold windowLo windowSize
  by_cases h : 8192 ≤ p
  · rw [if_pos h]
  · rw [if_neg h]; omega

/-- R75: the feasible length. -/
theorem maxLength_eq (n p : Nat) : maxLength n p = min 255 (n - p) := rfl

/-- The compare loop stops at the first offset where a bound is reached or the bytes differ. -/
theorem matchFrom_spec (inp : List Byte) (p maxlen i left k : Nat) :
    k ≤ matchFrom inp p maxlen i left k ∧ matchFrom inp p maxlen i left k ≤ k + left ∧
      (∀ j, k ≤ j → j < matchFrom inp p maxlen i left k →
        i + j < p ∧ j < maxlen ∧ inp[i + j]? = inp[p + j]?) ∧
      (matchFrom inp p maxlen i left k < k + left →
        ¬ (i + matchFrom inp p maxlen i left k < p ∧ matchFrom inp p maxlen i left k < maxlen ∧
          inp[i + matchFrom inp p maxlen i left k]? = inp[p + matchFrom inp p maxlen i left k]?)) := by
  induction left generalizing k with
  | zero =>
    simp only [matchFrom]
    exact ⟨by omega, by omega, fun j hj hlt => by omega, fun h => by omega⟩
  | succ left ih =>
    simp only [matchFrom]
    split
    · next hc =>
      obtain ⟨h1, h2, h3, h4⟩ := ih (k + 1)
      refine ⟨by omega, by omega, fun j hj hlt => ?_, fun hlt => h4 (by omega)⟩
      rcases Nat.eq_or_lt_of_le hj with rfl | hj'
      · exact hc
      · exact h3 j hj' hlt
    · next hc => exact ⟨by omega, by omega, fun j hj hlt => by omega, fun _ => hc⟩

end Sys2Proof.Machine
end

