-- ==== Sys2Proof/Laws/PerInstr.lean ====
section
/-! SUPPORT. One statement per instruction: its encoding has the width of its row's format (R50, R56). -/

namespace Sys2Proof.Laws.EncodedWidth

/-- The encoder gives as many bytes as the instruction's format has. -/
def Statement (i : Instr) : Prop := (encode i).length = i.form.bytes

theorem lit (b : Byte) : Statement (.lit b) := rfl
theorem matchTok (d : Dist) (l b : Byte) : Statement (.matchTok d l b) := rfl
theorem illegal (d : Dist) (l b : Byte) : Statement (.illegal d l b) := rfl
theorem litNC (l b : Byte) : Statement (.litNC l b) := rfl
theorem matchEnd (d : Dist) (l : Byte) : Statement (.matchEnd d l) := rfl
theorem zlit : Statement .zlit := rfl
theorem stream (olen tcnt : BitVec 32) : Statement (.stream olen tcnt) := rfl
theorem encode : Statement .encode := rfl
theorem decode : Statement .decode := rfl
theorem serialize : Statement .serialize := rfl
theorem deserialize : Statement .deserialize := rfl

end Sys2Proof.Laws.EncodedWidth
end

