-- ==== Sys2Proof/Laws/State.lean ====
section
/-! SUPPORT. One lemma per field per update, so that no later proof unfolds an update of the state. -/

namespace Sys2Proof.Machine

/-! ### latch -/

section
variable (d : Dist) (l b : Byte) (s : State)

@[simp] theorem latch_cfg : (latch d l b s).cfg = s.cfg := rfl
@[simp] theorem latch_cmd : (latch d l b s).cmd = s.cmd := rfl
@[simp] theorem latch_status : (latch d l b s).status = s.status := rfl
@[simp] theorem latch_cause : (latch d l b s).cause = s.cause := rfl
@[simp] theorem latch_info : (latch d l b s).info = s.info := rfl
@[simp] theorem latch_lenmis : (latch d l b s).lenmis = s.lenmis := rfl
@[simp] theorem latch_phase : (latch d l b s).phase = s.phase := rfl
@[simp] theorem latch_enc : (latch d l b s).enc = s.enc := rfl
@[simp] theorem latch_dec : (latch d l b s).dec = { s.dec with d := d, l := l, b := b } := rfl
@[simp] theorem latch_ser : (latch d l b s).ser = s.ser := rfl
@[simp] theorem latch_des : (latch d l b s).des = s.des := rfl
@[simp] theorem latch_ibuf : (latch d l b s).ibuf = s.ibuf := rfl
@[simp] theorem latch_ibufN : (latch d l b s).ibufN = s.ibufN := rfl
@[simp] theorem latch_tbuf : (latch d l b s).tbuf = s.tbuf := rfl
@[simp] theorem latch_tbufTcnt : (latch d l b s).tbufTcnt = s.tbufTcnt := rfl
@[simp] theorem latch_tbufOlen : (latch d l b s).tbufOlen = s.tbufOlen := rfl
@[simp] theorem latch_obuf : (latch d l b s).obuf = s.obuf := rfl
@[simp] theorem latch_obufLen : (latch d l b s).obufLen = s.obufLen := rfl
@[simp] theorem latch_pbuf : (latch d l b s).pbuf = s.pbuf := rfl
@[simp] theorem latch_pbufPlen : (latch d l b s).pbufPlen = s.pbufPlen := rfl
@[simp] theorem latch_host : (latch d l b s).host = s.host := rfl
@[simp] theorem latch_hostIn : (latch d l b s).hostIn = s.hostIn := rfl

end

/-! ### append -/

section
variable (b : Byte) (s : State)

@[simp] theorem append_cfg : (append b s).cfg = s.cfg := rfl
@[simp] theorem append_cmd : (append b s).cmd = s.cmd := rfl
@[simp] theorem append_status : (append b s).status = s.status := rfl
@[simp] theorem append_cause : (append b s).cause = s.cause := rfl
@[simp] theorem append_info : (append b s).info = s.info := rfl
@[simp] theorem append_lenmis : (append b s).lenmis = s.lenmis := rfl
@[simp] theorem append_phase : (append b s).phase = s.phase := rfl
@[simp] theorem append_enc : (append b s).enc = s.enc := rfl
@[simp] theorem append_dec : (append b s).dec = { s.dec with cur := s.dec.cur + 1 } := rfl
@[simp] theorem append_ser : (append b s).ser = s.ser := rfl
@[simp] theorem append_des : (append b s).des = s.des := rfl
@[simp] theorem append_ibuf : (append b s).ibuf = s.ibuf := rfl
@[simp] theorem append_ibufN : (append b s).ibufN = s.ibufN := rfl
@[simp] theorem append_tbuf : (append b s).tbuf = s.tbuf := rfl
@[simp] theorem append_tbufTcnt : (append b s).tbufTcnt = s.tbufTcnt := rfl
@[simp] theorem append_tbufOlen : (append b s).tbufOlen = s.tbufOlen := rfl
@[simp] theorem append_obuf : (append b s).obuf = memSet s.obuf s.dec.cur b := rfl
@[simp] theorem append_obufLen : (append b s).obufLen = s.obufLen := rfl
@[simp] theorem append_pbuf : (append b s).pbuf = s.pbuf := rfl
@[simp] theorem append_pbufPlen : (append b s).pbufPlen = s.pbufPlen := rfl
@[simp] theorem append_host : (append b s).host = s.host := rfl
@[simp] theorem append_hostIn : (append b s).hostIn = s.hostIn := rfl

end

/-! ### nextToken -/

section
variable  (s : State)

@[simp] theorem nextToken_cfg : (nextToken s).cfg = s.cfg := rfl
@[simp] theorem nextToken_cmd : (nextToken s).cmd = s.cmd := rfl
@[simp] theorem nextToken_status : (nextToken s).status = s.status := rfl
@[simp] theorem nextToken_cause : (nextToken s).cause = s.cause := rfl
@[simp] theorem nextToken_info : (nextToken s).info = s.info := rfl
@[simp] theorem nextToken_lenmis : (nextToken s).lenmis = s.lenmis := rfl
@[simp] theorem nextToken_phase : (nextToken s).phase = s.phase := rfl
@[simp] theorem nextToken_enc : (nextToken s).enc = s.enc := rfl
@[simp] theorem nextToken_dec : (nextToken s).dec = { s.dec with ti := s.dec.ti + 1 } := rfl
@[simp] theorem nextToken_ser : (nextToken s).ser = s.ser := rfl
@[simp] theorem nextToken_des : (nextToken s).des = s.des := rfl
@[simp] theorem nextToken_ibuf : (nextToken s).ibuf = s.ibuf := rfl
@[simp] theorem nextToken_ibufN : (nextToken s).ibufN = s.ibufN := rfl
@[simp] theorem nextToken_tbuf : (nextToken s).tbuf = s.tbuf := rfl
@[simp] theorem nextToken_tbufTcnt : (nextToken s).tbufTcnt = s.tbufTcnt := rfl
@[simp] theorem nextToken_tbufOlen : (nextToken s).tbufOlen = s.tbufOlen := rfl
@[simp] theorem nextToken_obuf : (nextToken s).obuf = s.obuf := rfl
@[simp] theorem nextToken_obufLen : (nextToken s).obufLen = s.obufLen := rfl
@[simp] theorem nextToken_pbuf : (nextToken s).pbuf = s.pbuf := rfl
@[simp] theorem nextToken_pbufPlen : (nextToken s).pbufPlen = s.pbufPlen := rfl
@[simp] theorem nextToken_host : (nextToken s).host = s.host := rfl
@[simp] theorem nextToken_hostIn : (nextToken s).hostIn = s.hostIn := rfl

end

/-! ### afterCopy -/

section
variable (m : ByteMem) (c k : Nat) (s : State)

@[simp] theorem afterCopy_cfg : (afterCopy m c k s).cfg = s.cfg := rfl
@[simp] theorem afterCopy_cmd : (afterCopy m c k s).cmd = s.cmd := rfl
@[simp] theorem afterCopy_status : (afterCopy m c k s).status = s.status := rfl
@[simp] theorem afterCopy_cause : (afterCopy m c k s).cause = s.cause := rfl
@[simp] theorem afterCopy_info : (afterCopy m c k s).info = s.info := rfl
@[simp] theorem afterCopy_lenmis : (afterCopy m c k s).lenmis = s.lenmis := rfl
@[simp] theorem afterCopy_phase : (afterCopy m c k s).phase = s.phase := rfl
@[simp] theorem afterCopy_enc : (afterCopy m c k s).enc = s.enc := rfl
@[simp] theorem afterCopy_dec : (afterCopy m c k s).dec = { s.dec with cur := c, k := k } := rfl
@[simp] theorem afterCopy_ser : (afterCopy m c k s).ser = s.ser := rfl
@[simp] theorem afterCopy_des : (afterCopy m c k s).des = s.des := rfl
@[simp] theorem afterCopy_ibuf : (afterCopy m c k s).ibuf = s.ibuf := rfl
@[simp] theorem afterCopy_ibufN : (afterCopy m c k s).ibufN = s.ibufN := rfl
@[simp] theorem afterCopy_tbuf : (afterCopy m c k s).tbuf = s.tbuf := rfl
@[simp] theorem afterCopy_tbufTcnt : (afterCopy m c k s).tbufTcnt = s.tbufTcnt := rfl
@[simp] theorem afterCopy_tbufOlen : (afterCopy m c k s).tbufOlen = s.tbufOlen := rfl
@[simp] theorem afterCopy_obuf : (afterCopy m c k s).obuf = m := rfl
@[simp] theorem afterCopy_obufLen : (afterCopy m c k s).obufLen = s.obufLen := rfl
@[simp] theorem afterCopy_pbuf : (afterCopy m c k s).pbuf = s.pbuf := rfl
@[simp] theorem afterCopy_pbufPlen : (afterCopy m c k s).pbufPlen = s.pbufPlen := rfl
@[simp] theorem afterCopy_host : (afterCopy m c k s).host = s.host := rfl
@[simp] theorem afterCopy_hostIn : (afterCopy m c k s).hostIn = s.hostIn := rfl

end

/-! ### setStart -/

section
variable (x : Nat) (s : State)

@[simp] theorem setStart_cfg : (setStart x s).cfg = s.cfg := rfl
@[simp] theorem setStart_cmd : (setStart x s).cmd = s.cmd := rfl
@[simp] theorem setStart_status : (setStart x s).status = s.status := rfl
@[simp] theorem setStart_cause : (setStart x s).cause = s.cause := rfl
@[simp] theorem setStart_info : (setStart x s).info = s.info := rfl
@[simp] theorem setStart_lenmis : (setStart x s).lenmis = s.lenmis := rfl
@[simp] theorem setStart_phase : (setStart x s).phase = s.phase := rfl
@[simp] theorem setStart_enc : (setStart x s).enc = s.enc := rfl
@[simp] theorem setStart_dec : (setStart x s).dec = { s.dec with start := x } := rfl
@[simp] theorem setStart_ser : (setStart x s).ser = s.ser := rfl
@[simp] theorem setStart_des : (setStart x s).des = s.des := rfl
@[simp] theorem setStart_ibuf : (setStart x s).ibuf = s.ibuf := rfl
@[simp] theorem setStart_ibufN : (setStart x s).ibufN = s.ibufN := rfl
@[simp] theorem setStart_tbuf : (setStart x s).tbuf = s.tbuf := rfl
@[simp] theorem setStart_tbufTcnt : (setStart x s).tbufTcnt = s.tbufTcnt := rfl
@[simp] theorem setStart_tbufOlen : (setStart x s).tbufOlen = s.tbufOlen := rfl
@[simp] theorem setStart_obuf : (setStart x s).obuf = s.obuf := rfl
@[simp] theorem setStart_obufLen : (setStart x s).obufLen = s.obufLen := rfl
@[simp] theorem setStart_pbuf : (setStart x s).pbuf = s.pbuf := rfl
@[simp] theorem setStart_pbufPlen : (setStart x s).pbufPlen = s.pbufPlen := rfl
@[simp] theorem setStart_host : (setStart x s).host = s.host := rfl
@[simp] theorem setStart_hostIn : (setStart x s).hostIn = s.hostIn := rfl

end

/-! ### latchHeader -/

section
variable (o c : BitVec 32) (s : State)

@[simp] theorem latchHeader_cfg : (latchHeader o c s).cfg = s.cfg := rfl
@[simp] theorem latchHeader_cmd : (latchHeader o c s).cmd = s.cmd := rfl
@[simp] theorem latchHeader_status : (latchHeader o c s).status = s.status := rfl
@[simp] theorem latchHeader_cause : (latchHeader o c s).cause = s.cause := rfl
@[simp] theorem latchHeader_info : (latchHeader o c s).info = s.info := rfl
@[simp] theorem latchHeader_lenmis : (latchHeader o c s).lenmis = s.lenmis := rfl
@[simp] theorem latchHeader_phase : (latchHeader o c s).phase = s.phase := rfl
@[simp] theorem latchHeader_enc : (latchHeader o c s).enc = s.enc := rfl
@[simp] theorem latchHeader_dec : (latchHeader o c s).dec = s.dec := rfl
@[simp] theorem latchHeader_ser : (latchHeader o c s).ser = s.ser := rfl
@[simp] theorem latchHeader_des : (latchHeader o c s).des = { s.des with olen := o, tcnt := c } := rfl
@[simp] theorem latchHeader_ibuf : (latchHeader o c s).ibuf = s.ibuf := rfl
@[simp] theorem latchHeader_ibufN : (latchHeader o c s).ibufN = s.ibufN := rfl
@[simp] theorem latchHeader_tbuf : (latchHeader o c s).tbuf = s.tbuf := rfl
@[simp] theorem latchHeader_tbufTcnt : (latchHeader o c s).tbufTcnt = s.tbufTcnt := rfl
@[simp] theorem latchHeader_tbufOlen : (latchHeader o c s).tbufOlen = s.tbufOlen := rfl
@[simp] theorem latchHeader_obuf : (latchHeader o c s).obuf = s.obuf := rfl
@[simp] theorem latchHeader_obufLen : (latchHeader o c s).obufLen = s.obufLen := rfl
@[simp] theorem latchHeader_pbuf : (latchHeader o c s).pbuf = s.pbuf := rfl
@[simp] theorem latchHeader_pbufPlen : (latchHeader o c s).pbufPlen = s.pbufPlen := rfl
@[simp] theorem latchHeader_host : (latchHeader o c s).host = s.host := rfl
@[simp] theorem latchHeader_hostIn : (latchHeader o c s).hostIn = s.hostIn := rfl

end

/-! ### setBest -/

section
variable (x y : Nat) (r : Best) (s : State)

@[simp] theorem setBest_cfg : (setBest x y r s).cfg = s.cfg := rfl
@[simp] theorem setBest_cmd : (setBest x y r s).cmd = s.cmd := rfl
@[simp] theorem setBest_status : (setBest x y r s).status = s.status := rfl
@[simp] theorem setBest_cause : (setBest x y r s).cause = s.cause := rfl
@[simp] theorem setBest_info : (setBest x y r s).info = s.info := rfl
@[simp] theorem setBest_lenmis : (setBest x y r s).lenmis = s.lenmis := rfl
@[simp] theorem setBest_phase : (setBest x y r s).phase = s.phase := rfl
@[simp] theorem setBest_enc : (setBest x y r s).enc = { s.enc with lo := x, maxlen := y, i := r.i, k := r.k, blen := r.blen, bdist := r.bdist } := rfl
@[simp] theorem setBest_dec : (setBest x y r s).dec = s.dec := rfl
@[simp] theorem setBest_ser : (setBest x y r s).ser = s.ser := rfl
@[simp] theorem setBest_des : (setBest x y r s).des = s.des := rfl
@[simp] theorem setBest_ibuf : (setBest x y r s).ibuf = s.ibuf := rfl
@[simp] theorem setBest_ibufN : (setBest x y r s).ibufN = s.ibufN := rfl
@[simp] theorem setBest_tbuf : (setBest x y r s).tbuf = s.tbuf := rfl
@[simp] theorem setBest_tbufTcnt : (setBest x y r s).tbufTcnt = s.tbufTcnt := rfl
@[simp] theorem setBest_tbufOlen : (setBest x y r s).tbufOlen = s.tbufOlen := rfl
@[simp] theorem setBest_obuf : (setBest x y r s).obuf = s.obuf := rfl
@[simp] theorem setBest_obufLen : (setBest x y r s).obufLen = s.obufLen := rfl
@[simp] theorem setBest_pbuf : (setBest x y r s).pbuf = s.pbuf := rfl
@[simp] theorem setBest_pbufPlen : (setBest x y r s).pbufPlen = s.pbufPlen := rfl
@[simp] theorem setBest_host : (setBest x y r s).host = s.host := rfl
@[simp] theorem setBest_hostIn : (setBest x y r s).hostIn = s.hostIn := rfl

end

/-! ### encMatch -/

section
variable (inp : List Byte) (s : State)

@[simp] theorem encMatch_cfg : (encMatch inp s).cfg = s.cfg := rfl
@[simp] theorem encMatch_cmd : (encMatch inp s).cmd = s.cmd := rfl
@[simp] theorem encMatch_status : (encMatch inp s).status = s.status := rfl
@[simp] theorem encMatch_cause : (encMatch inp s).cause = s.cause := rfl
@[simp] theorem encMatch_info : (encMatch inp s).info = s.info := rfl
@[simp] theorem encMatch_lenmis : (encMatch inp s).lenmis = s.lenmis := rfl
@[simp] theorem encMatch_phase : (encMatch inp s).phase = s.phase := rfl
@[simp] theorem encMatch_enc : (encMatch inp s).enc = { s.enc with p := s.enc.p + s.enc.blen + 1, cnt := s.enc.cnt + 1 } := rfl
@[simp] theorem encMatch_dec : (encMatch inp s).dec = s.dec := rfl
@[simp] theorem encMatch_ser : (encMatch inp s).ser = s.ser := rfl
@[simp] theorem encMatch_des : (encMatch inp s).des = s.des := rfl
@[simp] theorem encMatch_ibuf : (encMatch inp s).ibuf = s.ibuf := rfl
@[simp] theorem encMatch_ibufN : (encMatch inp s).ibufN = s.ibufN := rfl
@[simp] theorem encMatch_tbuf : (encMatch inp s).tbuf = memSet s.tbuf s.enc.cnt (tokWord (BitVec.ofNat 16 s.enc.bdist) (BitVec.ofNat 8 s.enc.blen) (trailingByte inp s.enc.n (s.enc.p + s.enc.blen))) := rfl
@[simp] theorem encMatch_tbufTcnt : (encMatch inp s).tbufTcnt = s.tbufTcnt := rfl
@[simp] theorem encMatch_tbufOlen : (encMatch inp s).tbufOlen = s.tbufOlen := rfl
@[simp] theorem encMatch_obuf : (encMatch inp s).obuf = s.obuf := rfl
@[simp] theorem encMatch_obufLen : (encMatch inp s).obufLen = s.obufLen := rfl
@[simp] theorem encMatch_pbuf : (encMatch inp s).pbuf = s.pbuf := rfl
@[simp] theorem encMatch_pbufPlen : (encMatch inp s).pbufPlen = s.pbufPlen := rfl
@[simp] theorem encMatch_host : (encMatch inp s).host = s.host := rfl
@[simp] theorem encMatch_hostIn : (encMatch inp s).hostIn = s.hostIn := rfl

end

/-! ### encLiteral -/

section
variable (inp : List Byte) (s : State)

@[simp] theorem encLiteral_cfg : (encLiteral inp s).cfg = s.cfg := rfl
@[simp] theorem encLiteral_cmd : (encLiteral inp s).cmd = s.cmd := rfl
@[simp] theorem encLiteral_status : (encLiteral inp s).status = s.status := rfl
@[simp] theorem encLiteral_cause : (encLiteral inp s).cause = s.cause := rfl
@[simp] theorem encLiteral_info : (encLiteral inp s).info = s.info := rfl
@[simp] theorem encLiteral_lenmis : (encLiteral inp s).lenmis = s.lenmis := rfl
@[simp] theorem encLiteral_phase : (encLiteral inp s).phase = s.phase := rfl
@[simp] theorem encLiteral_enc : (encLiteral inp s).enc = { s.enc with p := s.enc.p + 1, cnt := s.enc.cnt + 1 } := rfl
@[simp] theorem encLiteral_dec : (encLiteral inp s).dec = s.dec := rfl
@[simp] theorem encLiteral_ser : (encLiteral inp s).ser = s.ser := rfl
@[simp] theorem encLiteral_des : (encLiteral inp s).des = s.des := rfl
@[simp] theorem encLiteral_ibuf : (encLiteral inp s).ibuf = s.ibuf := rfl
@[simp] theorem encLiteral_ibufN : (encLiteral inp s).ibufN = s.ibufN := rfl
@[simp] theorem encLiteral_tbuf : (encLiteral inp s).tbuf = memSet s.tbuf s.enc.cnt (tokWord 0 0 (inp.getD s.enc.p 0)) := rfl
@[simp] theorem encLiteral_tbufTcnt : (encLiteral inp s).tbufTcnt = s.tbufTcnt := rfl
@[simp] theorem encLiteral_tbufOlen : (encLiteral inp s).tbufOlen = s.tbufOlen := rfl
@[simp] theorem encLiteral_obuf : (encLiteral inp s).obuf = s.obuf := rfl
@[simp] theorem encLiteral_obufLen : (encLiteral inp s).obufLen = s.obufLen := rfl
@[simp] theorem encLiteral_pbuf : (encLiteral inp s).pbuf = s.pbuf := rfl
@[simp] theorem encLiteral_pbufPlen : (encLiteral inp s).pbufPlen = s.pbufPlen := rfl
@[simp] theorem encLiteral_host : (encLiteral inp s).host = s.host := rfl
@[simp] theorem encLiteral_hostIn : (encLiteral inp s).hostIn = s.hostIn := rfl

end

/-! ### encFinish -/

section
variable  (s : State)

@[simp] theorem encFinish_cfg : (encFinish s).cfg = s.cfg := rfl
@[simp] theorem encFinish_cmd : (encFinish s).cmd = s.cmd := rfl
@[simp] theorem encFinish_status : (encFinish s).status = .done := rfl
@[simp] theorem encFinish_cause : (encFinish s).cause = s.cause := rfl
@[simp] theorem encFinish_info : (encFinish s).info = s.info := rfl
@[simp] theorem encFinish_lenmis : (encFinish s).lenmis = s.lenmis := rfl
@[simp] theorem encFinish_phase : (encFinish s).phase = s.phase := rfl
@[simp] theorem encFinish_enc : (encFinish s).enc = s.enc := rfl
@[simp] theorem encFinish_dec : (encFinish s).dec = s.dec := rfl
@[simp] theorem encFinish_ser : (encFinish s).ser = s.ser := rfl
@[simp] theorem encFinish_des : (encFinish s).des = s.des := rfl
@[simp] theorem encFinish_ibuf : (encFinish s).ibuf = s.ibuf := rfl
@[simp] theorem encFinish_ibufN : (encFinish s).ibufN = s.ibufN := rfl
@[simp] theorem encFinish_tbuf : (encFinish s).tbuf = s.tbuf := rfl
@[simp] theorem encFinish_tbufTcnt : (encFinish s).tbufTcnt = some s.enc.cnt := rfl
@[simp] theorem encFinish_tbufOlen : (encFinish s).tbufOlen = some s.enc.n := rfl
@[simp] theorem encFinish_obuf : (encFinish s).obuf = s.obuf := rfl
@[simp] theorem encFinish_obufLen : (encFinish s).obufLen = s.obufLen := rfl
@[simp] theorem encFinish_pbuf : (encFinish s).pbuf = s.pbuf := rfl
@[simp] theorem encFinish_pbufPlen : (encFinish s).pbufPlen = s.pbufPlen := rfl
@[simp] theorem encFinish_host : (encFinish s).host = s.host := rfl
@[simp] theorem encFinish_hostIn : (encFinish s).hostIn = s.hostIn := rfl

end

/-! ### decFinish -/

section
variable  (s : State)

@[simp] theorem decFinish_cfg : (decFinish s).cfg = s.cfg := rfl
@[simp] theorem decFinish_cmd : (decFinish s).cmd = s.cmd := rfl
@[simp] theorem decFinish_status : (decFinish s).status = .done := rfl
@[simp] theorem decFinish_cause : (decFinish s).cause = s.cause := rfl
@[simp] theorem decFinish_info : (decFinish s).info = s.info := rfl
@[simp] theorem decFinish_lenmis : (decFinish s).lenmis = lengthMismatch s.dec.cur s.dec.olen := rfl
@[simp] theorem decFinish_phase : (decFinish s).phase = s.phase := rfl
@[simp] theorem decFinish_enc : (decFinish s).enc = s.enc := rfl
@[simp] theorem decFinish_dec : (decFinish s).dec = s.dec := rfl
@[simp] theorem decFinish_ser : (decFinish s).ser = s.ser := rfl
@[simp] theorem decFinish_des : (decFinish s).des = s.des := rfl
@[simp] theorem decFinish_ibuf : (decFinish s).ibuf = s.ibuf := rfl
@[simp] theorem decFinish_ibufN : (decFinish s).ibufN = s.ibufN := rfl
@[simp] theorem decFinish_tbuf : (decFinish s).tbuf = s.tbuf := rfl
@[simp] theorem decFinish_tbufTcnt : (decFinish s).tbufTcnt = s.tbufTcnt := rfl
@[simp] theorem decFinish_tbufOlen : (decFinish s).tbufOlen = s.tbufOlen := rfl
@[simp] theorem decFinish_obuf : (decFinish s).obuf = s.obuf := rfl
@[simp] theorem decFinish_obufLen : (decFinish s).obufLen = some s.dec.cur := rfl
@[simp] theorem decFinish_pbuf : (decFinish s).pbuf = s.pbuf := rfl
@[simp] theorem decFinish_pbufPlen : (decFinish s).pbufPlen = s.pbufPlen := rfl
@[simp] theorem decFinish_host : (decFinish s).host = s.host := rfl
@[simp] theorem decFinish_hostIn : (decFinish s).hostIn = s.hostIn := rfl

end

/-! ### serFinish -/

section
variable  (s : State)

@[simp] theorem serFinish_cfg : (serFinish s).cfg = s.cfg := rfl
@[simp] theorem serFinish_cmd : (serFinish s).cmd = s.cmd := rfl
@[simp] theorem serFinish_status : (serFinish s).status = .done := rfl
@[simp] theorem serFinish_cause : (serFinish s).cause = s.cause := rfl
@[simp] theorem serFinish_info : (serFinish s).info = s.info := rfl
@[simp] theorem serFinish_lenmis : (serFinish s).lenmis = s.lenmis := rfl
@[simp] theorem serFinish_phase : (serFinish s).phase = s.phase := rfl
@[simp] theorem serFinish_enc : (serFinish s).enc = s.enc := rfl
@[simp] theorem serFinish_dec : (serFinish s).dec = s.dec := rfl
@[simp] theorem serFinish_ser : (serFinish s).ser = s.ser := rfl
@[simp] theorem serFinish_des : (serFinish s).des = s.des := rfl
@[simp] theorem serFinish_ibuf : (serFinish s).ibuf = s.ibuf := rfl
@[simp] theorem serFinish_ibufN : (serFinish s).ibufN = s.ibufN := rfl
@[simp] theorem serFinish_tbuf : (serFinish s).tbuf = s.tbuf := rfl
@[simp] theorem serFinish_tbufTcnt : (serFinish s).tbufTcnt = s.tbufTcnt := rfl
@[simp] theorem serFinish_tbufOlen : (serFinish s).tbufOlen = s.tbufOlen := rfl
@[simp] theorem serFinish_obuf : (serFinish s).obuf = s.obuf := rfl
@[simp] theorem serFinish_obufLen : (serFinish s).obufLen = s.obufLen := rfl
@[simp] theorem serFinish_pbuf : (serFinish s).pbuf = s.pbuf := rfl
@[simp] theorem serFinish_pbufPlen : (serFinish s).pbufPlen = some (persistedSize s.ser.tcnt) := rfl
@[simp] theorem serFinish_host : (serFinish s).host = s.host := rfl
@[simp] theorem serFinish_hostIn : (serFinish s).hostIn = s.hostIn := rfl

end

/-! ### desFinish -/

section
variable  (s : State)

@[simp] theorem desFinish_cfg : (desFinish s).cfg = s.cfg := rfl
@[simp] theorem desFinish_cmd : (desFinish s).cmd = s.cmd := rfl
@[simp] theorem desFinish_status : (desFinish s).status = .done := rfl
@[simp] theorem desFinish_cause : (desFinish s).cause = s.cause := rfl
@[simp] theorem desFinish_info : (desFinish s).info = s.info := rfl
@[simp] theorem desFinish_lenmis : (desFinish s).lenmis = s.lenmis := rfl
@[simp] theorem desFinish_phase : (desFinish s).phase = s.phase := rfl
@[simp] theorem desFinish_enc : (desFinish s).enc = s.enc := rfl
@[simp] theorem desFinish_dec : (desFinish s).dec = s.dec := rfl
@[simp] theorem desFinish_ser : (desFinish s).ser = s.ser := rfl
@[simp] theorem desFinish_des : (desFinish s).des = s.des := rfl
@[simp] theorem desFinish_ibuf : (desFinish s).ibuf = s.ibuf := rfl
@[simp] theorem desFinish_ibufN : (desFinish s).ibufN = s.ibufN := rfl
@[simp] theorem desFinish_tbuf : (desFinish s).tbuf = s.tbuf := rfl
@[simp] theorem desFinish_tbufTcnt : (desFinish s).tbufTcnt = some (headerValue s.des.tcnt).toNat := rfl
@[simp] theorem desFinish_tbufOlen : (desFinish s).tbufOlen = some (headerValue s.des.olen).toNat := rfl
@[simp] theorem desFinish_obuf : (desFinish s).obuf = s.obuf := rfl
@[simp] theorem desFinish_obufLen : (desFinish s).obufLen = s.obufLen := rfl
@[simp] theorem desFinish_pbuf : (desFinish s).pbuf = s.pbuf := rfl
@[simp] theorem desFinish_pbufPlen : (desFinish s).pbufPlen = s.pbufPlen := rfl
@[simp] theorem desFinish_host : (desFinish s).host = s.host := rfl
@[simp] theorem desFinish_hostIn : (desFinish s).hostIn = s.hostIn := rfl

end

/-! ### clearDestination -/

section
variable (c : Command) (s : State)

@[simp] theorem clearDestination_cfg : (clearDestination c s).cfg = s.cfg := by cases c <;> rfl
@[simp] theorem clearDestination_cmd : (clearDestination c s).cmd = s.cmd := by cases c <;> rfl
@[simp] theorem clearDestination_status : (clearDestination c s).status = s.status := by cases c <;> rfl
@[simp] theorem clearDestination_cause : (clearDestination c s).cause = s.cause := by cases c <;> rfl
@[simp] theorem clearDestination_info : (clearDestination c s).info = s.info := by cases c <;> rfl
@[simp] theorem clearDestination_phase : (clearDestination c s).phase = s.phase := by cases c <;> rfl
@[simp] theorem clearDestination_enc : (clearDestination c s).enc = s.enc := by cases c <;> rfl
@[simp] theorem clearDestination_dec : (clearDestination c s).dec = s.dec := by cases c <;> rfl
@[simp] theorem clearDestination_ser : (clearDestination c s).ser = s.ser := by cases c <;> rfl
@[simp] theorem clearDestination_des : (clearDestination c s).des = s.des := by cases c <;> rfl
@[simp] theorem clearDestination_ibuf : (clearDestination c s).ibuf = s.ibuf := by cases c <;> rfl
@[simp] theorem clearDestination_ibufN : (clearDestination c s).ibufN = s.ibufN := by cases c <;> rfl
@[simp] theorem clearDestination_host : (clearDestination c s).host = s.host := by cases c <;> rfl
@[simp] theorem clearDestination_hostIn : (clearDestination c s).hostIn = s.hostIn := by cases c <;> rfl

end

/-! ### raise -/

section
variable (c : Command) (e : Cause) (x : Nat) (s : State)

@[simp] theorem raise_cfg : (raise c e x s).cfg = s.cfg := by cases c <;> rfl
@[simp] theorem raise_cmd : (raise c e x s).cmd = s.cmd := by cases c <;> rfl
@[simp] theorem raise_status : (raise c e x s).status = .error := by cases c <;> rfl
@[simp] theorem raise_cause : (raise c e x s).cause = e := by cases c <;> rfl
@[simp] theorem raise_info : (raise c e x s).info = x := by cases c <;> rfl
@[simp] theorem raise_phase : (raise c e x s).phase = s.phase := by cases c <;> rfl
@[simp] theorem raise_enc : (raise c e x s).enc = s.enc := by cases c <;> rfl
@[simp] theorem raise_dec : (raise c e x s).dec = s.dec := by cases c <;> rfl
@[simp] theorem raise_ser : (raise c e x s).ser = s.ser := by cases c <;> rfl
@[simp] theorem raise_des : (raise c e x s).des = s.des := by cases c <;> rfl
@[simp] theorem raise_ibuf : (raise c e x s).ibuf = s.ibuf := by cases c <;> rfl
@[simp] theorem raise_ibufN : (raise c e x s).ibufN = s.ibufN := by cases c <;> rfl
@[simp] theorem raise_host : (raise c e x s).host = s.host := by cases c <;> rfl
@[simp] theorem raise_hostIn : (raise c e x s).hostIn = s.hostIn := by cases c <;> rfl

end

/-! ### start -/

section
variable (c : Command) (s : State)

@[simp] theorem start_cfg : (start c s).cfg = s.cfg := by cases c <;> rfl
@[simp] theorem start_cmd : (start c s).cmd = commandCode c := by cases c <;> rfl
@[simp] theorem start_status : (start c s).status = .busy := by cases c <;> rfl
@[simp] theorem start_cause : (start c s).cause = .none := by cases c <;> rfl
@[simp] theorem start_info : (start c s).info = 0 := by cases c <;> rfl
@[simp] theorem start_lenmis : (start c s).lenmis = false := by cases c <;> rfl
@[simp] theorem start_phase : (start c s).phase = .header := by cases c <;> rfl
@[simp] theorem start_enc : (start c s).enc = s.enc := by cases c <;> rfl
@[simp] theorem start_dec : (start c s).dec = s.dec := by cases c <;> rfl
@[simp] theorem start_ser : (start c s).ser = s.ser := by cases c <;> rfl
@[simp] theorem start_des : (start c s).des = s.des := by cases c <;> rfl
@[simp] theorem start_ibuf : (start c s).ibuf = s.ibuf := by cases c <;> rfl
@[simp] theorem start_ibufN : (start c s).ibufN = s.ibufN := by cases c <;> rfl
@[simp] theorem start_host : (start c s).host = s.host := by cases c <;> rfl
@[simp] theorem start_hostIn : (start c s).hostIn = s.hostIn := by cases c <;> rfl

end

/-! ### The destination of each command, without value (R24) -/

@[simp] theorem clear_encode_lenmis (s : State) : (clearDestination .encode s).lenmis = s.lenmis := rfl
@[simp] theorem raise_encode_lenmis (e : Cause) (x : Nat) (s : State) : (raise .encode e x s).lenmis = s.lenmis := rfl
@[simp] theorem clear_encode_tbuf (s : State) : (clearDestination .encode s).tbuf = [] := rfl
@[simp] theorem raise_encode_tbuf (e : Cause) (x : Nat) (s : State) : (raise .encode e x s).tbuf = [] := rfl
@[simp] theorem start_encode_tbuf (s : State) : (start .encode s).tbuf = [] := rfl
@[simp] theorem clear_encode_tbufTcnt (s : State) : (clearDestination .encode s).tbufTcnt = none := rfl
@[simp] theorem raise_encode_tbufTcnt (e : Cause) (x : Nat) (s : State) : (raise .encode e x s).tbufTcnt = none := rfl
@[simp] theorem start_encode_tbufTcnt (s : State) : (start .encode s).tbufTcnt = none := rfl
@[simp] theorem clear_encode_tbufOlen (s : State) : (clearDestination .encode s).tbufOlen = none := rfl
@[simp] theorem raise_encode_tbufOlen (e : Cause) (x : Nat) (s : State) : (raise .encode e x s).tbufOlen = none := rfl
@[simp] theorem start_encode_tbufOlen (s : State) : (start .encode s).tbufOlen = none := rfl
@[simp] theorem clear_encode_obuf (s : State) : (clearDestination .encode s).obuf = s.obuf := rfl
@[simp] theorem raise_encode_obuf (e : Cause) (x : Nat) (s : State) : (raise .encode e x s).obuf = s.obuf := rfl
@[simp] theorem start_encode_obuf (s : State) : (start .encode s).obuf = s.obuf := rfl
@[simp] theorem clear_encode_obufLen (s : State) : (clearDestination .encode s).obufLen = s.obufLen := rfl
@[simp] theorem raise_encode_obufLen (e : Cause) (x : Nat) (s : State) : (raise .encode e x s).obufLen = s.obufLen := rfl
@[simp] theorem start_encode_obufLen (s : State) : (start .encode s).obufLen = s.obufLen := rfl
@[simp] theorem clear_encode_pbuf (s : State) : (clearDestination .encode s).pbuf = s.pbuf := rfl
@[simp] theorem raise_encode_pbuf (e : Cause) (x : Nat) (s : State) : (raise .encode e x s).pbuf = s.pbuf := rfl
@[simp] theorem start_encode_pbuf (s : State) : (start .encode s).pbuf = s.pbuf := rfl
@[simp] theorem clear_encode_pbufPlen (s : State) : (clearDestination .encode s).pbufPlen = s.pbufPlen := rfl
@[simp] theorem raise_encode_pbufPlen (e : Cause) (x : Nat) (s : State) : (raise .encode e x s).pbufPlen = s.pbufPlen := rfl
@[simp] theorem start_encode_pbufPlen (s : State) : (start .encode s).pbufPlen = s.pbufPlen := rfl
@[simp] theorem clear_decode_lenmis (s : State) : (clearDestination .decode s).lenmis = false := rfl
@[simp] theorem raise_decode_lenmis (e : Cause) (x : Nat) (s : State) : (raise .decode e x s).lenmis = false := rfl
@[simp] theorem clear_decode_tbuf (s : State) : (clearDestination .decode s).tbuf = s.tbuf := rfl
@[simp] theorem raise_decode_tbuf (e : Cause) (x : Nat) (s : State) : (raise .decode e x s).tbuf = s.tbuf := rfl
@[simp] theorem start_decode_tbuf (s : State) : (start .decode s).tbuf = s.tbuf := rfl
@[simp] theorem clear_decode_tbufTcnt (s : State) : (clearDestination .decode s).tbufTcnt = s.tbufTcnt := rfl
@[simp] theorem raise_decode_tbufTcnt (e : Cause) (x : Nat) (s : State) : (raise .decode e x s).tbufTcnt = s.tbufTcnt := rfl
@[simp] theorem start_decode_tbufTcnt (s : State) : (start .decode s).tbufTcnt = s.tbufTcnt := rfl
@[simp] theorem clear_decode_tbufOlen (s : State) : (clearDestination .decode s).tbufOlen = s.tbufOlen := rfl
@[simp] theorem raise_decode_tbufOlen (e : Cause) (x : Nat) (s : State) : (raise .decode e x s).tbufOlen = s.tbufOlen := rfl
@[simp] theorem start_decode_tbufOlen (s : State) : (start .decode s).tbufOlen = s.tbufOlen := rfl
@[simp] theorem clear_decode_obuf (s : State) : (clearDestination .decode s).obuf = [] := rfl
@[simp] theorem raise_decode_obuf (e : Cause) (x : Nat) (s : State) : (raise .decode e x s).obuf = [] := rfl
@[simp] theorem start_decode_obuf (s : State) : (start .decode s).obuf = [] := rfl
@[simp] theorem clear_decode_obufLen (s : State) : (clearDestination .decode s).obufLen = none := rfl
@[simp] theorem raise_decode_obufLen (e : Cause) (x : Nat) (s : State) : (raise .decode e x s).obufLen = none := rfl
@[simp] theorem start_decode_obufLen (s : State) : (start .decode s).obufLen = none := rfl
@[simp] theorem clear_decode_pbuf (s : State) : (clearDestination .decode s).pbuf = s.pbuf := rfl
@[simp] theorem raise_decode_pbuf (e : Cause) (x : Nat) (s : State) : (raise .decode e x s).pbuf = s.pbuf := rfl
@[simp] theorem start_decode_pbuf (s : State) : (start .decode s).pbuf = s.pbuf := rfl
@[simp] theorem clear_decode_pbufPlen (s : State) : (clearDestination .decode s).pbufPlen = s.pbufPlen := rfl
@[simp] theorem raise_decode_pbufPlen (e : Cause) (x : Nat) (s : State) : (raise .decode e x s).pbufPlen = s.pbufPlen := rfl
@[simp] theorem start_decode_pbufPlen (s : State) : (start .decode s).pbufPlen = s.pbufPlen := rfl
@[simp] theorem clear_serialize_lenmis (s : State) : (clearDestination .serialize s).lenmis = s.lenmis := rfl
@[simp] theorem raise_serialize_lenmis (e : Cause) (x : Nat) (s : State) : (raise .serialize e x s).lenmis = s.lenmis := rfl
@[simp] theorem clear_serialize_tbuf (s : State) : (clearDestination .serialize s).tbuf = s.tbuf := rfl
@[simp] theorem raise_serialize_tbuf (e : Cause) (x : Nat) (s : State) : (raise .serialize e x s).tbuf = s.tbuf := rfl
@[simp] theorem start_serialize_tbuf (s : State) : (start .serialize s).tbuf = s.tbuf := rfl
@[simp] theorem clear_serialize_tbufTcnt (s : State) : (clearDestination .serialize s).tbufTcnt = s.tbufTcnt := rfl
@[simp] theorem raise_serialize_tbufTcnt (e : Cause) (x : Nat) (s : State) : (raise .serialize e x s).tbufTcnt = s.tbufTcnt := rfl
@[simp] theorem start_serialize_tbufTcnt (s : State) : (start .serialize s).tbufTcnt = s.tbufTcnt := rfl
@[simp] theorem clear_serialize_tbufOlen (s : State) : (clearDestination .serialize s).tbufOlen = s.tbufOlen := rfl
@[simp] theorem raise_serialize_tbufOlen (e : Cause) (x : Nat) (s : State) : (raise .serialize e x s).tbufOlen = s.tbufOlen := rfl
@[simp] theorem start_serialize_tbufOlen (s : State) : (start .serialize s).tbufOlen = s.tbufOlen := rfl
@[simp] theorem clear_serialize_obuf (s : State) : (clearDestination .serialize s).obuf = s.obuf := rfl
@[simp] theorem raise_serialize_obuf (e : Cause) (x : Nat) (s : State) : (raise .serialize e x s).obuf = s.obuf := rfl
@[simp] theorem start_serialize_obuf (s : State) : (start .serialize s).obuf = s.obuf := rfl
@[simp] theorem clear_serialize_obufLen (s : State) : (clearDestination .serialize s).obufLen = s.obufLen := rfl
@[simp] theorem raise_serialize_obufLen (e : Cause) (x : Nat) (s : State) : (raise .serialize e x s).obufLen = s.obufLen := rfl
@[simp] theorem start_serialize_obufLen (s : State) : (start .serialize s).obufLen = s.obufLen := rfl
@[simp] theorem clear_serialize_pbuf (s : State) : (clearDestination .serialize s).pbuf = [] := rfl
@[simp] theorem raise_serialize_pbuf (e : Cause) (x : Nat) (s : State) : (raise .serialize e x s).pbuf = [] := rfl
@[simp] theorem start_serialize_pbuf (s : State) : (start .serialize s).pbuf = [] := rfl
@[simp] theorem clear_serialize_pbufPlen (s : State) : (clearDestination .serialize s).pbufPlen = none := rfl
@[simp] theorem raise_serialize_pbufPlen (e : Cause) (x : Nat) (s : State) : (raise .serialize e x s).pbufPlen = none := rfl
@[simp] theorem start_serialize_pbufPlen (s : State) : (start .serialize s).pbufPlen = none := rfl
@[simp] theorem clear_deserialize_lenmis (s : State) : (clearDestination .deserialize s).lenmis = s.lenmis := rfl
@[simp] theorem raise_deserialize_lenmis (e : Cause) (x : Nat) (s : State) : (raise .deserialize e x s).lenmis = s.lenmis := rfl
@[simp] theorem clear_deserialize_tbuf (s : State) : (clearDestination .deserialize s).tbuf = [] := rfl
@[simp] theorem raise_deserialize_tbuf (e : Cause) (x : Nat) (s : State) : (raise .deserialize e x s).tbuf = [] := rfl
@[simp] theorem start_deserialize_tbuf (s : State) : (start .deserialize s).tbuf = [] := rfl
@[simp] theorem clear_deserialize_tbufTcnt (s : State) : (clearDestination .deserialize s).tbufTcnt = none := rfl
@[simp] theorem raise_deserialize_tbufTcnt (e : Cause) (x : Nat) (s : State) : (raise .deserialize e x s).tbufTcnt = none := rfl
@[simp] theorem start_deserialize_tbufTcnt (s : State) : (start .deserialize s).tbufTcnt = none := rfl
@[simp] theorem clear_deserialize_tbufOlen (s : State) : (clearDestination .deserialize s).tbufOlen = none := rfl
@[simp] theorem raise_deserialize_tbufOlen (e : Cause) (x : Nat) (s : State) : (raise .deserialize e x s).tbufOlen = none := rfl
@[simp] theorem start_deserialize_tbufOlen (s : State) : (start .deserialize s).tbufOlen = none := rfl
@[simp] theorem clear_deserialize_obuf (s : State) : (clearDestination .deserialize s).obuf = s.obuf := rfl
@[simp] theorem raise_deserialize_obuf (e : Cause) (x : Nat) (s : State) : (raise .deserialize e x s).obuf = s.obuf := rfl
@[simp] theorem start_deserialize_obuf (s : State) : (start .deserialize s).obuf = s.obuf := rfl
@[simp] theorem clear_deserialize_obufLen (s : State) : (clearDestination .deserialize s).obufLen = s.obufLen := rfl
@[simp] theorem raise_deserialize_obufLen (e : Cause) (x : Nat) (s : State) : (raise .deserialize e x s).obufLen = s.obufLen := rfl
@[simp] theorem start_deserialize_obufLen (s : State) : (start .deserialize s).obufLen = s.obufLen := rfl
@[simp] theorem clear_deserialize_pbuf (s : State) : (clearDestination .deserialize s).pbuf = s.pbuf := rfl
@[simp] theorem raise_deserialize_pbuf (e : Cause) (x : Nat) (s : State) : (raise .deserialize e x s).pbuf = s.pbuf := rfl
@[simp] theorem start_deserialize_pbuf (s : State) : (start .deserialize s).pbuf = s.pbuf := rfl
@[simp] theorem clear_deserialize_pbufPlen (s : State) : (clearDestination .deserialize s).pbufPlen = s.pbufPlen := rfl
@[simp] theorem raise_deserialize_pbufPlen (e : Cause) (x : Nat) (s : State) : (raise .deserialize e x s).pbufPlen = s.pbufPlen := rfl
@[simp] theorem start_deserialize_pbufPlen (s : State) : (start .deserialize s).pbufPlen = s.pbufPlen := rfl

/-! ### Codes -/

@[simp] theorem commandOf_commandCode (c : Command) : commandOf (commandCode c) = c := by cases c <;> rfl

theorem commandCode_commandOf : ∀ c : CmdCode, commandCode (commandOf c) = c := by decide

end Sys2Proof.Machine
end

