-- ==== Sys2Proof/Laws/Step.lean ====
section
/-! SUPPORT. What a step can do, said once: the command's pass, the host's move, or nothing; and what each pass can
answer. Later proofs cite these and unfold neither `step` nor the meanings. -/

namespace Sys2Proof.Machine

/-! ### Fetching and dispatch -/

/-- R58: dispatching the decoded token is the loop body of R90 on its word. -/
theorem exec_decodeToken (w : TokWord) (s : State) : exec (decodeToken w) s = tokWordRun w s := by
  unfold decodeToken tokWordRun
  split
  · rfl
  · split
    · split
      · next hl => split <;> simp_all [exec, execZlit, execLit]
      · rfl
    · split
      · next hb => rw [hb]; rfl
      · rfl

/-- R17: the command of a code, as an instruction. -/
theorem exec_decodeCmd (c : CmdCode) (s : State) :
    exec (decodeCmd c) s =
      match commandOf c with
      | .encode => execEncode s
      | .decode => execDecode s
      | .serialize => execSerialize s
      | .deserialize => execDeserialize s := by
  unfold decodeCmd commandOf
  split <;> simp_all [exec]

theorem takeUp_busy {c : Command} {b p : State → Host.Outcome State Fault Refusal} {s : State}
    (h : s.status = .busy) (hc : commandOf s.cmd = c) : takeUp c b p s = p s := by simp [takeUp, h, hc]

theorem takeUp_free {c : Command} {b p : State → Host.Outcome State Fault Refusal} {s : State}
    (h : s.status ≠ .busy) : takeUp c b p s = b s := by simp [takeUp, h]

/-- The pass of the command `c`, one step of its run (R172). -/
def passOf : Command → State → Host.Outcome State Fault Refusal
  | .encode => encPass
  | .decode => decPass
  | .serialize => serPass
  | .deserialize => desPass

/-- The start of the command `c` (R17, R161). -/
def startOf : Command → State → Host.Outcome State Fault Refusal
  | .encode => encStart
  | .decode => decStart
  | .serialize => serStart
  | .deserialize => desStart

/-- R17, R170: the meaning of a command's instruction in any state. -/
theorem exec_command (c : CmdCode) (s : State) :
    exec (decodeCmd c) s = takeUp (commandOf c) (startOf (commandOf c)) (passOf (commandOf c)) s := by
  rw [exec_decodeCmd]; cases commandOf c <;> rfl

/-- While a command runs, a step is that command's pass. -/
theorem step_busy {s : State} (h : s.status = .busy) : step s = passOf (commandOf s.cmd) s := by
  simp only [step, fetch, h, if_true]
  cases hc : commandOf s.cmd with
  | encode => simp [fetchRunning, exec, execEncode, takeUp_busy h hc, passOf]
  | serialize => simp [fetchRunning, exec, execSerialize, takeUp_busy h hc, passOf]
  | decode =>
    simp only [fetchRunning, fetchToken, passOf, decPass]
    by_cases hti : s.dec.ti < s.dec.tcnt
    · simp only [if_pos hti]
      cases hw : memGet s.tbuf s.dec.ti with
      | none => rfl
      | some w => exact exec_decodeToken w s
    · simp [hti, exec, execDecode, takeUp_busy h hc, decPass]
  | deserialize =>
    simp only [fetchRunning, passOf]
    cases hph : s.phase with
    | body => simp [exec, execDeserialize, takeUp_busy h hc]
    | header =>
      simp only [fetchHeader, desPass, hph, desValidate]
      cases hp : s.pbufPlen with
      | none => rfl
      | some plen =>
        by_cases hl : plen < headerBytes
        · simp [hl, exec, execDeserialize, takeUp_busy h hc, desPass, hph, desValidate, hp]
        · simp only [if_neg hl]
          cases hr : memRead s.pbuf 0 headerBytes with
          | none => rfl
          | some bs =>
            have hlen := memRead_length hr
            match bs, hlen with
            | [b0, b1, b2, b3, b4, b5, b6, b7], _ =>
              simp [decodeBytes, exec, execStream, hp, hl]

/-- With no command running and no host move, nothing happens. -/
theorem step_idle {s : State} (h : s.status ≠ .busy) (hh : s.host = []) : step s = .next s := by
  simp [step, fetch, h, fetchHost, hh]

/-- With no command running, a step is the host's next move. -/
theorem step_host {s : State} {m : HostMove} {rest : List HostMove} (h : s.status ≠ .busy)
    (hh : s.host = m :: rest) : step s = hostMove m { s with host := rest } := by
  cases m <;> simp [step, fetch, h, fetchHost, hh, hostMove]

/-- R17: the host's write of a CMD code starts the command. -/
theorem step_writeCmd {s : State} {c : CmdCode} {rest : List HostMove} (h : s.status ≠ .busy)
    (hh : s.host = .writeCmd c :: rest) : step s = startOf (commandOf c) { s with host := rest } := by
  rw [step_host h hh, hostMove, exec_command, takeUp_free (by exact h)]

/-- Everything a step that answers a next state can be. -/
theorem step_cases {s t : State} (h : step s = .next t) :
    (s.status = .busy ∧ passOf (commandOf s.cmd) s = .next t) ∨
    (s.status ≠ .busy ∧ s.host = [] ∧ t = s) ∨
    (s.status ≠ .busy ∧ ∃ c rest, s.host = .writeCmd c :: rest ∧
      startOf (commandOf c) { s with host := rest } = .next t) ∨
    (s.status ≠ .busy ∧ ∃ m rest, s.host = m :: rest ∧ (∀ c, m ≠ .writeCmd c) ∧
      hostMove m { s with host := rest } = .next t) := by
  by_cases hb : s.status = .busy
  · exact .inl ⟨hb, step_busy hb ▸ h⟩
  · refine .inr ?_
    cases hh : s.host with
    | nil =>
      rw [step_idle hb hh] at h
      exact .inl ⟨hb, rfl, by injection h with h; exact h.symm⟩
    | cons m rest =>
      by_cases hm : ∃ c, m = .writeCmd c
      · obtain ⟨c, rfl⟩ := hm
        exact .inr (.inl ⟨hb, c, rest, rfl, step_writeCmd hb hh ▸ h⟩)
      · exact .inr (.inr ⟨hb, m, rest, rfl, fun c hc => hm ⟨c, hc⟩, step_host hb hh ▸ h⟩)

/-! ### Starts -/

/-- Everything the start of a command that answers can be. -/
theorem startOf_cases {c : Command} {s t : State} (h : startOf c s = .next t) :
    (c = .encode ∧ ∃ n, s.ibufN = some n ∧ n ≤ s.cfg.nMax ∧
      t = { start .encode s with enc := { s.enc with n := n, p := 0, cnt := 0 } }) ∨
    (c = .decode ∧ ∃ olen tcnt, s.tbufOlen = some olen ∧ s.tbufTcnt = some tcnt ∧
      t = { start .decode s with dec := { s.dec with olen := olen, tcnt := tcnt, ti := 0, cur := 0 } }) ∨
    (c = .serialize ∧ ∃ olen tcnt, s.tbufOlen = some olen ∧ s.tbufTcnt = some tcnt ∧
      t = { start .serialize s with ser := { ti := 0, tcnt := tcnt } }) ∨
    (c = .deserialize ∧ ∃ plen, s.pbufPlen = some plen ∧
      t = { start .deserialize s with des := { s.des with ti := 0 } }) := by
  cases c with
  | encode =>
    simp only [startOf, encStart] at h
    split at h
    · cases h
    · next n hn =>
      split at h
      · next hle => cases h; exact .inl ⟨rfl, n, hn, hle, rfl⟩
      · cases h
  | decode =>
    simp only [startOf, decStart] at h
    split at h
    · next olen tcnt ho ht => cases h; exact .inr (.inl ⟨rfl, olen, tcnt, ho, ht, rfl⟩)
    · cases h
    · cases h
  | serialize =>
    simp only [startOf, serStart] at h
    split at h
    · next olen tcnt ho ht => cases h; exact .inr (.inr (.inl ⟨rfl, olen, tcnt, ho, ht, rfl⟩))
    · cases h
    · cases h
  | deserialize =>
    simp only [startOf, desStart] at h
    split at h
    · next plen hp => cases h; exact .inr (.inr (.inr ⟨rfl, plen, hp, rfl⟩))
    · cases h

/-! ### Passes -/

/-- R72: everything a pass of ENCODE that answers can be. -/
theorem encPass_cases {s t : State} (h : encPass s = .next t) :
    (s.enc.p < s.enc.n ∧ guardFires s.cfg s.enc.cnt s.enc.n = true ∧
      t = raise .encode .incompressible s.enc.p s) ∨
    (s.enc.p < s.enc.n ∧ guardFires s.cfg s.enc.cnt s.enc.n = false ∧
      ∃ inp, memRead s.ibuf 0 s.enc.n = some inp ∧ t = encEmit inp (encSearch inp s)) ∨
    (s.enc.n ≤ s.enc.p ∧ t = encFinish s) := by
  simp only [encPass] at h
  split at h
  · next hp =>
    split at h
    · next hg => cases h; exact .inl ⟨hp, hg, rfl⟩
    · next hg =>
      split at h
      · next inp hi => cases h; exact .inr (.inl ⟨hp, by simpa using hg, inp, hi, rfl⟩)
      · cases h
  · next hp => cases h; exact .inr (.inr ⟨by omega, rfl⟩)

/-- R94: everything a LIT can be. -/
theorem tokLit_cases (l b : Byte) (s : State) :
    (s.dec.olen ≤ s.dec.cur ∧ tokLit l b s = .next (raise .decode .outputOverrun s.dec.ti (latch 0 l b s))) ∨
    (s.dec.cur < s.dec.olen ∧ tokLit l b s = .next (nextToken (append b (latch 0 l b s)))) := by
  by_cases h : s.dec.olen ≤ s.dec.cur
  · exact .inl ⟨h, by simp [tokLit, h]⟩
  · exact .inr ⟨by omega, by simp [tokLit, h]⟩

/-- R95 to R97: everything a MATCH that answers can be. -/
theorem tokMatch_cases {d : Dist} {l b : Byte} {s t : State} (h : tokMatch d l b s = .next t) :
    ((s.dec.cur : Int) < d.toInt ∧ t = raise .decode .refBeforeStart s.dec.ti (latch d l b s)) ∨
    (d.toInt ≤ (s.dec.cur : Int) ∧ ∃ m cur k,
      copyBytes s.dec.olen (s.dec.cur - d.toNat) l.toNat 0 s.dec.k s.obuf s.dec.cur = .moved m cur k ∧
      t = nextToken (appendTrailing b (afterCopy m cur k (setStart (s.dec.cur - d.toNat) (latch d l b s))))) ∨
    (d.toInt ≤ (s.dec.cur : Int) ∧ ∃ m cur k,
      copyBytes s.dec.olen (s.dec.cur - d.toNat) l.toNat 0 s.dec.k s.obuf s.dec.cur = .full m cur k ∧
      t = raise .decode .outputOverrun s.dec.ti
        (afterCopy m cur k (setStart (s.dec.cur - d.toNat) (latch d l b s)))) := by
  simp only [tokMatch] at h
  split at h
  · next hd => cases h; exact .inl ⟨hd, rfl⟩
  · next hd =>
    split at h
    · next m cur k hc => cases h; exact .inr (.inl ⟨by omega, m, cur, k, hc, rfl⟩)
    · next m cur k hc => cases h; exact .inr (.inr ⟨by omega, m, cur, k, hc, rfl⟩)
    · cases h

/-- R92: everything a pass of DECODE that answers can be. -/
theorem decPass_cases {s t : State} (h : decPass s = .next t) :
    (s.dec.ti < s.dec.tcnt ∧ ∃ w, memGet s.tbuf s.dec.ti = some w ∧ tokWordRun w s = .next t) ∨
    (s.dec.tcnt ≤ s.dec.ti ∧ t = decFinish s) := by
  simp only [decPass] at h
  split at h
  · next hti =>
    split at h
    · next w hw => exact .inl ⟨hti, w, hw, h⟩
    · cases h
  · next hti => cases h; exact .inr ⟨by omega, rfl⟩

/-- R58, R93: the loop body on a word, class by class. -/
theorem tokWordRun_cases (w : TokWord) (s : State) :
    (illegalDistance (distField w) = true ∧
      tokWordRun w s = .next (raise .decode .illegalToken s.dec.ti
        (latch (distField w) (lenField w) (byteField w) s))) ∨
    (distField w = 0 ∧ tokWordRun w s = tokLit (lenField w) (byteField w) s) ∨
    (illegalDistance (distField w) = false ∧ distField w ≠ 0 ∧
      tokWordRun w s = tokMatch (distField w) (lenField w) (byteField w) s) := by
  by_cases hi : illegalDistance (distField w) = true
  · exact .inl ⟨hi, by simp [tokWordRun, hi, tokIllegal]⟩
  · by_cases h0 : distField w = 0
    · exact .inr (.inl ⟨h0, by simp only [tokWordRun, if_neg hi, if_pos h0]⟩)
    · exact .inr (.inr ⟨by simpa using hi, h0, by simp only [tokWordRun, if_neg hi, if_neg h0]⟩)

/-- R172: everything a pass of SERIALIZE that answers can be. -/
theorem serPass_cases {s t : State} (h : serPass s = .next t) :
    (s.phase = .header ∧ ∃ olen, s.tbufOlen = some olen ∧
      t = { s with
        pbuf := memWrite s.pbuf 0 (bytes32 (BitVec.ofNat 32 olen) ++ bytes32 (BitVec.ofNat 32 s.ser.tcnt))
        phase := .body }) ∨
    (s.phase = .body ∧ s.ser.ti < s.ser.tcnt ∧ ∃ w, memGet s.tbuf s.ser.ti = some w ∧
      t = { s with
        pbuf := memWrite s.pbuf (tokenOffset s.ser.ti) (bytes32 w)
        ser := { s.ser with ti := s.ser.ti + 1 } }) ∨
    (s.phase = .body ∧ s.ser.tcnt ≤ s.ser.ti ∧ t = serFinish s) := by
  simp only [serPass] at h
  split at h
  · next hp =>
    simp only [serHeader] at h
    split at h
    · next olen ho => cases h; exact .inl ⟨hp, olen, ho, rfl⟩
    · cases h
  · next hp =>
    split at h
    · next hti =>
      simp only [serToken] at h
      split at h
      · next w hw => cases h; exact .inr (.inl ⟨hp, hti, w, hw, rfl⟩)
      · cases h
    · next hti => cases h; exact .inr (.inr ⟨hp, by omega, rfl⟩)

/-- R121: everything the checks of a header that was read can come to. -/
theorem desHeader_cases (plen : Nat) (olen tcnt : BitVec 32) (s : State) :
    (headerInRange s.cfg olen = false ∧
      desHeader plen olen tcnt s = raise .deserialize .format 2 (latchHeader olen tcnt s)) ∨
    (headerInRange s.cfg olen = true ∧ headerInRange s.cfg tcnt = false ∧
      desHeader plen olen tcnt s = raise .deserialize .format 3 (latchHeader olen tcnt s)) ∨
    (headerInRange s.cfg olen = true ∧ headerInRange s.cfg tcnt = true ∧
      plen ≠ persistedSize (headerValue tcnt).toNat ∧
      desHeader plen olen tcnt s = raise .deserialize .format 4 (latchHeader olen tcnt s)) ∨
    (headerInRange s.cfg olen = true ∧ headerInRange s.cfg tcnt = true ∧
      plen = persistedSize (headerValue tcnt).toNat ∧
      desHeader plen olen tcnt s =
        { latchHeader olen tcnt s with phase := .body, des := { ti := 0, olen := olen, tcnt := tcnt } }) := by
  unfold desHeader
  by_cases ho : headerInRange s.cfg olen = false
  · exact .inl ⟨ho, if_pos ho⟩
  · rw [if_neg ho]
    rw [Bool.not_eq_false] at ho
    by_cases ht : headerInRange s.cfg tcnt = false
    · exact .inr (.inl ⟨ho, ht, if_pos ht⟩)
    · rw [if_neg ht]
      rw [Bool.not_eq_false] at ht
      by_cases hp : plen = persistedSize (headerValue tcnt).toNat
      · exact .inr (.inr (.inr ⟨ho, ht, hp, if_neg (by simpa using hp)⟩))
      · exact .inr (.inr (.inl ⟨ho, ht, hp, if_pos hp⟩))

/-- R172: everything a pass of DESERIALIZE that answers can be. -/
theorem desPass_cases {s t : State} (h : desPass s = .next t) :
    (s.phase = .header ∧ ∃ plen, s.pbufPlen = some plen ∧ plen < headerBytes ∧
      t = raise .deserialize .format 1 s) ∨
    (s.phase = .header ∧ ∃ plen b0 b1 b2 b3 b4 b5 b6 b7, s.pbufPlen = some plen ∧ headerBytes ≤ plen ∧
      memRead s.pbuf 0 headerBytes = some [b0, b1, b2, b3, b4, b5, b6, b7] ∧
      t = desHeader plen (be32 b0 b1 b2 b3) (be32 b4 b5 b6 b7) s) ∨
    (s.phase = .body ∧ (s.des.ti : Int) < headerValue s.des.tcnt ∧ ∃ b0 b1 b2 b3,
      memRead s.pbuf (tokenOffset s.des.ti) tokenBytes = some [b0, b1, b2, b3] ∧
      t = { s with
        tbuf := memSet s.tbuf s.des.ti (be32 b0 b1 b2 b3)
        des := { s.des with ti := s.des.ti + 1 } }) ∨
    (s.phase = .body ∧ headerValue s.des.tcnt ≤ (s.des.ti : Int) ∧ t = desFinish s) := by
  simp only [desPass] at h
  split at h
  · next hp =>
    simp only [desValidate] at h
    split at h
    · next plen hl =>
      split at h
      · next hlt => cases h; exact .inl ⟨hp, plen, hl, hlt, rfl⟩
      · next hlt =>
        split at h
        · next b0 b1 b2 b3 b4 b5 b6 b7 hr =>
          cases h
          exact .inr (.inl ⟨hp, plen, b0, b1, b2, b3, b4, b5, b6, b7, hl, by omega, hr, rfl⟩)
        · cases h
    · cases h
  · next hp =>
    split at h
    · next hti =>
      simp only [desToken] at h
      split at h
      · next b0 b1 b2 b3 hr => cases h; exact .inr (.inr (.inl ⟨hp, hti, b0, b1, b2, b3, hr, rfl⟩))
      · cases h
    · next hti => cases h; exact .inr (.inr (.inr ⟨hp, by omega, rfl⟩))

/-! ### The host's moves -/

/-- R162: everything a host move other than a CMD write that answers can be. -/
theorem hostMove_cases {m : HostMove} {s t : State} (hm : ∀ c, m ≠ .writeCmd c) (h : hostMove m s = .next t) :
    (∃ sp a v, m = .writeByte sp a v ∧ a < byteCapacity s.cfg sp ∧ t = s.setBytes sp (memSet (s.bytes sp) a v)) ∨
    (∃ x w, m = .writeToken x w ∧ x < s.cfg.nMax ∧ t = { s with tbuf := memSet s.tbuf x w }) ∨
    (∃ r n, m = .writeLen r n ∧ n ≤ lenLimit s.cfg r ∧ t = s.setLen r n) ∨
    (∃ v, t = { s with hostIn := v }) := by
  cases m with
  | writeCmd c => exact absurd rfl (hm c)
  | writeByte sp a v =>
    simp only [hostMove, hostWriteByte] at h
    split at h
    · next ha => cases h; exact .inl ⟨sp, a, v, rfl, ha, rfl⟩
    · cases h
  | writeToken x w =>
    simp only [hostMove, hostWriteToken] at h
    split at h
    · next hx => cases h; exact .inr (.inl ⟨x, w, rfl, hx, rfl⟩)
    · cases h
  | writeLen r n =>
    simp only [hostMove, hostWriteLen] at h
    split at h
    · next hn => cases h; exact .inr (.inr (.inl ⟨r, n, rfl, hn, rfl⟩))
    · cases h
  | readByte sp a =>
    simp only [hostMove, hostReadByte] at h
    repeat' split at h
    all_goals cases h
    exact .inr (.inr (.inr ⟨_, rfl⟩))
  | readToken x =>
    simp only [hostMove, hostReadToken] at h
    repeat' split at h
    all_goals cases h
    exact .inr (.inr (.inr ⟨_, rfl⟩))
  | readLen r =>
    simp only [hostMove, hostReadLen] at h
    split at h
    · cases h; exact .inr (.inr (.inr ⟨_, rfl⟩))
    · cases h
  | readCsr r =>
    simp only [hostMove, hostReadCsr] at h
    cases h; exact .inr (.inr (.inr ⟨_, rfl⟩))

end Sys2Proof.Machine
end

