-- ==== Sys2Proof/Laws/Run.lean ====
section
/-! SUPPORT. A running command's instruction is its pass, a command taken up with none running is its start, and a run
of several steps is its first step and the rest. -/

namespace Sys2Proof.Machine

theorem running_iff (c : Command) (s : State) :
    running c s = true ↔ s.status = .busy ∧ commandOf s.cmd = c := by simp [running]

theorem exec_running {c : Command} {s : State} (h : running c s = true) : exec (instrOf c) s = passOf c s := by
  have hb := (running_iff c s).1 h
  cases c <;> simp [instrOf, exec, execEncode, execDecode, execSerialize, execDeserialize,
    takeUp_busy hb.1 hb.2, passOf]

theorem exec_free {c : Command} {s : State} (h : s.status ≠ .busy) : exec (instrOf c) s = startOf c s := by
  cases c <;> simp [instrOf, exec, execEncode, execDecode, execSerialize, execDeserialize, takeUp_free h, startOf]

theorem step_running {c : Command} {s : State} (h : running c s = true) : step s = passOf c s := by
  have hb := (running_iff c s).1 h
  rw [step_busy hb.1, hb.2]

/-- R73: the guard as the rule writes it. -/
theorem guardFires_iff (c : Config) (cnt n : Nat) :
    guardFires c cnt n = true ↔ n ≤ (cnt + c.guardBias.val) * 4 := by
  unfold guardFires tokenBytes
  exact decide_eq_true_iff

theorem guardFires_false_iff (c : Config) (cnt n : Nat) :
    guardFires c cnt n = false ↔ (cnt + c.guardBias.val) * 4 < n := by
  rw [← Bool.not_eq_true, guardFires_iff, Nat.not_le]

/-- R61: the illegal distances as numbers. -/
theorem illegalDistance_iff (d : Dist) : illegalDistance d = true ↔ d.toInt < 0 ∨ 8192 < d.toInt := by
  unfold illegalDistance windowSize
  exact decide_eq_true_iff

/-- R57: the valid header values. -/
theorem headerInRange_iff (c : Config) (v : BitVec 32) :
    headerInRange c v = true ↔ 0 ≤ v.toInt ∧ v.toInt ≤ (c.nMax : Int) := by
  unfold headerInRange headerValue
  exact decide_eq_true_iff

/-- R96, R97: the trailing byte as the claims say it. -/
theorem trailingPresent_iff (b : Byte) (c : Nat) (s : State) :
    trailingPresent s.cfg.zeroPolicy b c s.dec.olen = true ↔ TrailingAppended b c s := by
  unfold trailingPresent TrailingAppended
  cases s.cfg.zeroPolicy <;> simp

/-- R96, R97: the trailing byte is appended or nothing happens. -/
theorem appendTrailing_cases (b : Byte) (s : State) :
    (TrailingAppended b s.dec.cur s ∧ appendTrailing b s = append b s) ∨
    (¬ TrailingAppended b s.dec.cur s ∧ appendTrailing b s = s) := by
  unfold appendTrailing
  rw [← trailingPresent_iff]
  by_cases h : trailingPresent s.cfg.zeroPolicy b s.dec.cur s.dec.olen = true
  · exact .inl ⟨h, if_pos h⟩
  · exact .inr ⟨h, if_neg h⟩

/-- R31: the offset of a token. -/
theorem tokenOffset_eq (i : Nat) : tokenOffset i = 8 + 4 * i := rfl

/-- R32: the size of a stream. -/
theorem persistedSize_eq (t : Nat) : persistedSize t = 8 + 4 * t := rfl

/-- Cells listed at the addresses 0 to `n - 1`, in any order, are exactly the cells below `n`. -/
theorem holdsExactly_of_keys {α : Type} {m : List (Nat × α)} {n : Nat}
    (h : m.map Prod.fst = List.range n) : HoldsExactly m n := by
  intro a
  rw [memGet_ne_none_iff, h, List.mem_range]

theorem HoldsExactly.below {α : Type} {m : List (Nat × α)} {n : Nat} (h : HoldsExactly m n) : HoldsBelow m n :=
  fun a ha => (h a).2 ha

theorem HoldsExactly.within {α : Type} {m : List (Nat × α)} {n k : Nat} (h : HoldsExactly m n) (hk : n ≤ k) :
    Within m k := fun a ha => Nat.lt_of_lt_of_le ((h a).1 ha) hk

@[simp] theorem runs_zero (s : State) : runs 0 s = .next s := rfl

theorem runs_succ (k : Nat) (s : State) :
    runs (k + 1) s = match step s with
      | .next t => runs k t
      | .fault f => .fault f
      | .refused r => .refused r := by
  have hs : Sys2Proof.core.step s = step s := rfl
  cases h : step s <;>
    (show Host.Core.run Sys2Proof.core (k + 1) s = _
     simp only [Host.Core.run]
     rw [hs, h]
     rfl)

theorem runs_next {k : Nat} {s t : State} (h : step s = .next t) : runs (k + 1) s = runs k t := by
  rw [runs_succ, h]

/-- A run goes on from where a shorter one ended. -/
theorem runs_add {j k : Nat} {s t : State} (h : runs j s = .next t) : runs (j + k) s = runs k t := by
  induction j generalizing s with
  | zero => rw [runs_zero] at h; cases h; rw [Nat.zero_add]
  | succ j ih =>
    rw [runs_succ] at h
    rw [Nat.succ_add, runs_succ]
    cases hs : step s with
    | next u => rw [hs] at h; exact ih h
    | fault f => rw [hs] at h; cases h
    | refused r => rw [hs] at h; cases h

end Sys2Proof.Machine
end

