-- ==== Sys2Proof/Tests/Slice0.lean ====
section
/-! SUPPORT. The tests: ill-formed terms refused, words written out from the spec's encodings, single steps with
results from the worked examples of the rules and from 95_test_vectors.md, and for each statement with hypotheses a
state that meets them. -/

namespace Sys2Proof.Tests

open Sys2Proof Sys2Proof.Machine

/-! ### States and readings -/

/-- The outcome is a next state that passes the check. -/
def nextIs (o : Host.Outcome State Fault Refusal) (p : State → Bool) : Bool :=
  match o with
  | .next t => p t
  | .fault _ => false
  | .refused _ => false

/-- The outcome is the fault. -/
def faultIs (o : Host.Outcome State Fault Refusal) (f : Fault) : Bool :=
  match o with
  | .next _ => false
  | .fault g => decide (f = g)
  | .refused _ => false

/-- The outcome is the refusal. -/
def refusalIs (o : Host.Outcome State Fault Refusal) (r : Refusal) : Bool :=
  match o with
  | .next _ => false
  | .fault _ => false
  | .refused q => decide (r = q)

theorem next_of {o : Host.Outcome State Fault Refusal} {p : State → Bool} (h : nextIs o p = true) :
    ∃ t, o = .next t ∧ p t = true := by
  cases o with
  | next t => exact ⟨t, rfl, h⟩
  | fault f => cases h
  | refused r => cases h

/-- ENCODE running on `inp` at position `p`, the given tokens emitted. -/
def encAt (inp : List Byte) (p : Nat) (toks : List TokWord) : State :=
  { State.reset with
    cmd := 0, status := .busy
    enc := { State.reset.enc with n := inp.length, p := p, cnt := toks.length }
    ibuf := memWrite [] 0 inp, ibufN := some inp.length
    tbuf := memWrite [] 0 toks, tbufTcnt := none, tbufOlen := none }

/-- DECODE running at token `ti` of the given tokens, `out` written. -/
def decAt (z : ZeroPolicy) (olen : Nat) (toks : List TokWord) (ti : Nat) (out : List Byte) : State :=
  { State.reset with
    cfg := { Config.default with zeroPolicy := z }
    cmd := 1, status := .busy
    dec := { State.reset.dec with olen := olen, tcnt := toks.length, ti := ti, cur := out.length }
    tbuf := memWrite [] 0 toks, tbufTcnt := some toks.length, tbufOlen := some olen
    obuf := memWrite [] 0 out, obufLen := none }

/-- SERIALIZE running at token `ti`, `out` written. -/
def serAt (ph : Phase) (olen : Nat) (toks : List TokWord) (ti : Nat) (out : List Byte) : State :=
  { State.reset with
    cmd := 2, status := .busy, phase := ph
    ser := { ti := ti, tcnt := toks.length }
    tbuf := memWrite [] 0 toks, tbufTcnt := some toks.length, tbufOlen := some olen
    pbuf := memWrite [] 0 out, pbufPlen := none }

/-- DESERIALIZE running on the bytes, the given tokens read. -/
def desAt (ph : Phase) (bytes : List Byte) (olen tcnt : BitVec 32) (toks : List TokWord) : State :=
  { State.reset with
    cmd := 3, status := .busy, phase := ph
    des := { ti := toks.length, olen := olen, tcnt := tcnt }
    pbuf := memWrite [] 0 bytes, pbufPlen := some bytes.length
    tbuf := memWrite [] 0 toks, tbufTcnt := none, tbufOlen := none }

/-- No command running, the host about to make the given moves. -/
def hostAt (moves : List HostMove) : State := { State.reset with host := moves }

/-- 24 times the letter `a`, the input of R70's worked example. -/
def a24 : List Byte := List.replicate 24 0x61

/-- That input at P = 15 with the five tokens of R70's example emitted. -/
def encMatchState : State :=
  encAt a24 15 [0x00000061, 0x00000061, 0x00000061, 0x00030361, 0x00070761]

/-- That input at P = 1. -/
def encLitState : State := encAt a24 1 [0x00000061]

/-- `"abc"` written and MATCH 3, 3, 'd' next, OLEN = 7 (R95's worked example). -/
def decMatchState : State := decAt .faithful 7 [0x61, 0x62, 0x63, 0x00030364] 3 [0x61, 0x62, 0x63]

/-- A stream of one token at its header and at its token. -/
def serHeadState : State := serAt .header 1 [0x00000061] 0 []
def serTokState : State := serAt .body 1 [0x00000061] 0 [0, 0, 0, 1, 0, 0, 0, 1]
def serDoneState : State := serAt .body 1 [0x00000061] 1 [0, 0, 0, 1, 0, 0, 0, 1, 0, 0, 0, 0x61]

/-- Its 12 bytes, read back. -/
def desBytes : List Byte := [0, 0, 0, 1, 0, 0, 0, 1, 0, 0, 0, 0x61]
def desHeadState : State := desAt .header desBytes 0 0 []
def desTokState : State := desAt .body desBytes 1 1 []
def desDoneState : State := desAt .body desBytes 1 1 [0x00000061]

/-- The block as the host sets it up with a stream, its bytes and an input. -/
def loaded (moves : List HostMove) : State :=
  { State.reset with
    ibuf := memWrite [] 0 a24, ibufN := some 24
    tbuf := memWrite [] 0 [0x00000061], tbufTcnt := some 1, tbufOlen := some 1
    pbuf := memWrite [] 0 desBytes, pbufPlen := some 12
    host := moves }

/-! ### Well-formedness: one ill-formed term for each check -/

theorem test_wf_lit_zero_byte : wellFormed (.lit 0) = false := by decide
theorem test_wf_match_distance_zero : wellFormed (.matchTok 0 3 1) = false := by decide
theorem test_wf_match_distance_beyond : wellFormed (.matchTok 0x2001 3 1) = false := by decide
theorem test_wf_match_zero_byte : wellFormed (.matchTok 3 3 0) = false := by decide
theorem test_wf_illegal_zero : wellFormed (.illegal 0 3 1) = false := by decide
theorem test_wf_illegal_8192 : wellFormed (.illegal 0x2000 3 1) = false := by decide
theorem test_wf_litNC_zero_length : wellFormed (.litNC 0 1) = false := by decide
theorem test_wf_matchEnd_distance_zero : wellFormed (.matchEnd 0 3) = false := by decide
theorem test_wf_matchEnd_distance_negative : wellFormed (.matchEnd 0xFFFF 3) = false := by decide
theorem test_wf_accepts : wellFormed (.matchTok 0x2000 0 1) = true ∧ wellFormed (.illegal 0x2001 0 0) = true := by
  decide

/-! ### Decoding: words written out field by field (R51, R52, R56, R17) -/

theorem test_decode_lit :
    decodeToken (0b0000000000000000#16 ++ 0b00000000#8 ++ 0b01100001#8) = .lit 0x61 := by decide
theorem test_decode_zlit :
    decodeToken (0b0000000000000000#16 ++ 0b00000000#8 ++ 0b00000000#8) = .zlit := by decide
theorem test_decode_litNC :
    decodeToken (0b0000000000000000#16 ++ 0b00000101#8 ++ 0b01100001#8) = .litNC 5 0x61 := by decide
/-- T6 of 95_test_vectors.md: the length byte 0xC8 reads as 200. -/
theorem test_decode_match :
    decodeToken (0b0000000100101100#16 ++ 0b11001000#8 ++ 0b11111111#8) = .matchTok 300 200 0xFF := by decide
/-- T4: the largest legal distance. -/
theorem test_decode_matchEnd :
    decodeToken (0b0010000000000000#16 ++ 0b00000011#8 ++ 0b00000000#8) = .matchEnd 8192 3 := by decide
/-- T9, T10, T11, T12. -/
theorem test_decode_illegal :
    decodeToken (0b0010000000000001#16 ++ 0b00000001#8 ++ 0b00000000#8) = .illegal 8193 1 0 ∧
    decodeToken (0b0111111111111111#16 ++ 0b00000000#8 ++ 0b00000000#8) = .illegal 32767 0 0 ∧
    decodeToken (0b1111111111111111#16 ++ 0b00000001#8 ++ 0b00000000#8) = .illegal (-1) 1 0 ∧
    decodeToken (0b1000000000000000#16 ++ 0b00000000#8 ++ 0b00000000#8) = .illegal (-32768) 0 0 := by decide
/-- R120's worked example: the header bytes `00 00 00 0A 00 00 00 03`. -/
theorem test_decode_stream :
    decodeBytes .header [0x00, 0x00, 0x00, 0x0A, 0x00, 0x00, 0x00, 0x03, 0x61] = .ok (.stream 10 3, [0x61]) := by
  rfl
theorem test_decode_commands :
    decodeCmd 0b00 = .encode ∧ decodeCmd 0b01 = .decode ∧ decodeCmd 0b10 = .serialize ∧
    decodeCmd 0b11 = .deserialize := by decide
theorem test_decode_refuses :
    decodeBytes .token [0, 3, 3] = .error (.truncated 3 4) ∧
    decodeBytes .cmd [4] = .error (.notCommandCode 4) := ⟨rfl, rfl⟩
theorem test_encode_match : encode (.matchTok 300 200 0xFF) = [0x01, 0x2C, 0xC8, 0xFF] := by decide

/-! ### The table's numbering -/

theorem test_table_token : decodeTableWord 32 0x00030361 = some (.matchTok 3 3 0x61) := by decide
theorem test_table_header : decodeTableWord 64 0x0000000A00000003 = some (.stream 10 3) := by decide
theorem test_table_command :
    decodeTableWord 2 3 = some .deserialize ∧ decodeTableWord 8 0 = some .encode ∧ decodeTableWord 8 4 = none := by
  decide
theorem test_fetch_token : nextIs (step (State.reset.withFetchWord 32 0x20010100))
    (fun t => decide (t.status = .error ∧ t.cause = .illegalToken ∧ t.info = 0)) = true := by decide
theorem test_fetch_header : nextIs (step (State.reset.withFetchWord 64 0x8000000000000000))
    (fun t => decide (t.status = .error ∧ t.cause = .format ∧ t.info = 2)) = true := by decide
theorem test_fetch_command : nextIs (step (State.reset.withFetchWord 8 1))
    (fun t => decide (t.status = .busy ∧ t.cmd = 1 ∧ t.host = [])) = true := by decide

/-! ### Single steps -/

/-- R94's worked example: CUR = 0, OLEN = 1, LIT 'a'. -/
theorem test_lit : nextIs (exec (.lit 0x61) (decAt .faithful 1 [0x61] 0 []))
    (fun t => decide (memGet t.obuf 0 = some 0x61 ∧ t.dec.cur = 1 ∧ t.dec.ti = 1)) = true := by decide
theorem test_lit_full : nextIs (exec (.lit 0x61) (decAt .faithful 0 [0x61] 0 []))
    (fun t => decide (t.status = .error ∧ t.cause = .outputOverrun ∧ t.obuf = [])) = true := by decide
/-- R62 (a): the length is ignored. -/
theorem test_litNC : nextIs (exec (.litNC 5 0x61) (decAt .faithful 1 [0x561] 0 []))
    (fun t => decide (memGet t.obuf 0 = some 0x61 ∧ t.dec.cur = 1)) = true := by decide
/-- R94: a LIT's zero is data under both policies. -/
theorem test_zlit : nextIs (exec .zlit (decAt .faithful 1 [0] 0 []))
    (fun t => decide (memGet t.obuf 0 = some 0 ∧ t.dec.cur = 1)) = true := by decide
/-- R95's worked example: `"abcabcd"`, CUR = 7. -/
theorem test_match : nextIs (exec (.matchTok 3 3 0x64) decMatchState)
    (fun t => decide (memRead t.obuf 0 7 = some [0x61, 0x62, 0x63, 0x61, 0x62, 0x63, 0x64] ∧ t.dec.cur = 7)) = true := by
  decide
/-- R138: MATCH (5, 3, 0) at cursor 2 with OLEN = 2 reports REF_BEFORE_START. -/
theorem test_match_before_start : nextIs (exec (.matchTok 5 3 1) (decAt .faithful 2 [0, 0, 0] 2 [0, 0]))
    (fun t => decide (t.cause = .refBeforeStart ∧ t.info = 2)) = true := by decide
/-- R37's worked example: (2, 8, 0) at cursor 2. -/
theorem test_matchEnd_overlap : nextIs (exec (.matchEnd 2 8) (decAt .faithful 10 [0x61, 0x62, 0x00020800] 2 [0x61, 0x62]))
    (fun t => decide (memRead t.obuf 0 10 =
      some [0x61, 0x62, 0x61, 0x62, 0x61, 0x62, 0x61, 0x62, 0x61, 0x62] ∧ t.dec.cur = 10)) = true := by decide
/-- R97's worked example: under `fixed` the zero byte is appended while there is room. -/
theorem test_matchEnd_fixed : nextIs (exec (.matchEnd 3 3) (decAt .fixed 38 [0x61, 0x61, 0x61, 0x00030300] 3 [0x61, 0x61, 0x61]))
    (fun t => decide (memGet t.obuf 6 = some 0 ∧ t.dec.cur = 7)) = true := by decide
/-- R93's worked example. -/
theorem test_illegal : nextIs (exec (.illegal (-1) 1 0) (decAt .faithful 9 [0x61, 0xFFFF0100] 1 [0x61]))
    (fun t => decide (t.status = .error ∧ t.cause = .illegalToken ∧ t.info = 1 ∧ t.obufLen = none)) = true := by decide
/-- R121's worked examples: check 4, and a header that passes. -/
theorem test_stream_length : nextIs (exec (.stream 10 3) (desAt .header (List.replicate 19 0) 0 0 []))
    (fun t => decide (t.status = .error ∧ t.cause = .format ∧ t.info = 4)) = true := by decide
theorem test_stream_valid : nextIs (exec (.stream 10 3) (desAt .header (List.replicate 20 0) 0 0 []))
    (fun t => decide (t.status = .busy ∧ t.phase = .body ∧ t.des.olen = 10 ∧ t.des.tcnt = 3)) = true := by decide
/-- R79's worked example: (9, 9, 0), P becomes 25. -/
theorem test_encode_match_step : nextIs (exec .encode encMatchState)
    (fun t => decide (memGet t.tbuf 5 = some 0x00090900 ∧ t.enc.p = 25)) = true := by decide
/-- R73's worked example: n = 2 at P = 1. -/
theorem test_encode_guard : nextIs (exec .encode (encAt [0x61, 0x62] 1 [0x61]))
    (fun t => decide (t.status = .error ∧ t.cause = .incompressible ∧ t.info = 1 ∧ t.tbufTcnt = none)) = true := by decide
/-- R98: a stream of no tokens with OLEN = 3 ends with LENMIS set. -/
theorem test_decode_done : nextIs (exec .decode (decAt .faithful 3 [] 0 []))
    (fun t => decide (t.status = .done ∧ t.obufLen = some 0 ∧ t.lenmis = true)) = true := by decide
theorem test_decode_start : nextIs (exec .decode (loaded []))
    (fun t => decide (t.status = .busy ∧ t.dec.olen = 1 ∧ t.dec.tcnt = 1 ∧ t.obufLen = none)) = true := by decide
/-- R30's worked example: 24 is stored as `00 00 00 18`. -/
theorem test_serialize_header : nextIs (exec .serialize (serAt .header 24 [] 0 []))
    (fun t => decide (memRead t.pbuf 0 8 = some [0, 0, 0, 0x18, 0, 0, 0, 0])) = true := by decide
theorem test_serialize_token : nextIs (exec .serialize (serAt .body 1 [0x012CC8FF] 0 []))
    (fun t => decide (memRead t.pbuf 8 4 = some [0x01, 0x2C, 0xC8, 0xFF] ∧ t.ser.ti = 1)) = true := by decide
/-- R121's worked example: PLEN = 7. -/
theorem test_deserialize_short : nextIs (exec .deserialize (desAt .header (List.replicate 7 0) 0 0 []))
    (fun t => decide (t.status = .error ∧ t.cause = .format ∧ t.info = 1)) = true := by decide
theorem test_deserialize_token : nextIs (exec .deserialize desTokState)
    (fun t => decide (memGet t.tbuf 0 = some 0x61 ∧ t.des.ti = 1)) = true := by decide

/-! ### Stops -/

/-- R170: a code taken up while another command runs. -/
theorem test_command_while_busy : refusalIs (exec .decode encLitState) .cmdWhileBusy = true := by decide
/-- R28, R139: TBUF holds no value after ENCODE ended in ERROR. -/
theorem test_no_length : faultIs (exec .decode { State.reset with status := .error, tbufTcnt := none, tbufOlen := none })
    (.noLength .tbufOlen) = true := by decide
theorem test_no_value : faultIs (step (hostAt [.readByte .ibuf 0])) (.noValue .ibuf 0) = true := by decide
theorem test_outside : faultIs (step (hostAt [.writeToken 2147483647 0])) (.outsideSpace .tbuf 2147483647) = true := by
  decide
theorem test_above_range : refusalIs (step (hostAt [.writeLen .ibufN 2147483648])) .aboveRange = true := by decide

/-! ### For each statement with hypotheses, values that meet them -/

theorem next_exists {o : Host.Outcome State Fault Refusal} (h : nextIs o (fun _ => true) = true) :
    ∃ t, o = .next t := by
  obtain ⟨t, ht, -⟩ := next_of h
  exact ⟨t, ht⟩

/-- `"abc"` is written, and distance 3 reaches its first byte. -/
theorem decMatch_source : MatchSourceReady 3 decMatchState := by
  refine ⟨by decide, by decide, by decide, fun a _ h => ?_⟩
  exact (holdsExactly_of_keys (m := decMatchState.obuf) (n := 3) (by decide)).below a h

theorem decFull_source : MatchSourceReady 3 (decAt .faithful 5 [0, 0, 0, 0x00030364] 3 [0x61, 0x62, 0x63]) := by
  refine ⟨by decide, by decide, by decide, fun a _ h => ?_⟩
  exact (holdsExactly_of_keys (m := (decAt .faithful 5 [0, 0, 0, 0x00030364] 3 [0x61, 0x62, 0x63]).obuf) (n := 3)
    (by decide)).below a h

theorem decExact_source : MatchSourceReady 3 (decAt .faithful 6 [0, 0, 0, 0x00030364] 3 [0x61, 0x62, 0x63]) := by
  refine ⟨by decide, by decide, by decide, fun a _ h => ?_⟩
  exact (holdsExactly_of_keys (m := (decAt .faithful 6 [0, 0, 0, 0x00030364] 3 [0x61, 0x62, 0x63]).obuf) (n := 3)
    (by decide)).below a h

theorem witness_PersistedFieldsAreBigEndian : (0 : Nat) < 4 ∧ (3 : Nat) < 4 := by decide

theorem witness_DecodeOfEncodeIsIdentity :
    wellFormed (.lit 0xFF) = true ∧ wellFormed (.matchTok 0x2000 0 1) = true ∧
    wellFormed (.illegal 0x2001 0 0) = true ∧ wellFormed (.litNC 1 0) = true ∧ wellFormed (.matchEnd 1 255) = true ∧
    wellFormed .zlit = true ∧ wellFormed (.stream (-1) 0) = true ∧ wellFormed .encode = true := by decide

theorem witness_EncodeOfDecodeIsIdentity :
    decodeBytes .token [0x20, 0x01, 0x01, 0x00, 7] = .ok (.illegal 8193 1 0, [7]) ∧
    decodeBytes .cmd [3] = .ok (.deserialize, []) := ⟨rfl, rfl⟩

/-- Clause 3 in a longer PBUF, and at the boundary PLEN = 8 in the theorem after this one. -/
theorem witness_StepRunsTheInstructionItFinds :
    ((hostAt [.writeCmd 3]).status ≠ .busy ∧ (hostAt [.writeCmd 3]).host = [.writeCmd 3]) ∧
    (running .decode decMatchState = true ∧ decMatchState.dec.ti < decMatchState.dec.tcnt ∧
      memGet decMatchState.tbuf decMatchState.dec.ti = some 0x00030364) ∧
    (running .deserialize desHeadState = true ∧ desHeadState.phase = .header ∧ desHeadState.pbufPlen = some 12 ∧
      memRead desHeadState.pbuf 0 8 = some [0, 0, 0, 1, 0, 0, 0, 1] ∧
      decodeBytes .header [0, 0, 0, 1, 0, 0, 0, 1] = .ok (.stream 1 1, [])) ∧
    running .encode encMatchState = true ∧
    (running .decode (decAt .faithful 3 [] 0 []) = true ∧
      (decAt .faithful 3 [] 0 []).dec.tcnt ≤ (decAt .faithful 3 [] 0 []).dec.ti) ∧
    running .serialize serHeadState = true ∧
    (running .deserialize desTokState = true ∧ desTokState.phase = .body) ∧
    (running .deserialize (desAt .header (List.replicate 7 0) 0 0 []) = true ∧
      (desAt .header (List.replicate 7 0) 0 0 []).pbufPlen = some 7) := by
  refine ⟨by decide, by decide, ⟨by decide, by decide, by decide, by decide, rfl⟩, by decide, by decide, by decide,
    by decide, by decide⟩

theorem witness_StepRunsTheHeaderAtItsShortest :
    running .deserialize (desAt .header [0, 0, 0, 0, 0, 0, 0, 0] 0 0 []) = true ∧
    (desAt .header [0, 0, 0, 0, 0, 0, 0, 0] 0 0 []).phase = .header ∧
    (desAt .header [0, 0, 0, 0, 0, 0, 0, 0] 0 0 []).pbufPlen = some 8 ∧ 8 ≤ 8 ∧
    memRead (desAt .header [0, 0, 0, 0, 0, 0, 0, 0] 0 0 []).pbuf 0 8 = some [0, 0, 0, 0, 0, 0, 0, 0] ∧
    decodeBytes .header [0, 0, 0, 0, 0, 0, 0, 0] = .ok (.stream 0 0, []) :=
  ⟨by decide, by decide, by decide, by decide, by decide, rfl⟩

theorem witness_IdleBlockStaysAsItIs : State.reset.status ≠ .busy ∧ State.reset.host = [] := by decide

/-- Clause 1 at its boundary, `n` equal to N_MAX, too. -/
theorem witness_CommandWriteStartsItsUnit :
    ((loaded []).status ≠ .busy ∧ (loaded []).ibufN = some 24 ∧ 24 ≤ (loaded []).cfg.nMax) ∧
    ((State.reset.setLen .ibufN 2147483647).ibufN = some 2147483647 ∧
      2147483647 ≤ (State.reset.setLen .ibufN 2147483647).cfg.nMax) ∧
    ((loaded []).tbufOlen = some 1 ∧ (loaded []).tbufTcnt = some 1) ∧ (loaded []).pbufPlen = some 12 := by decide

theorem witness_CommandsInitialiseTheirRegisters :
    ((loaded []).status ≠ .busy ∧ (loaded []).ibufN = some 24 ∧ 24 ≤ (loaded []).cfg.nMax) ∧
    ((loaded []).tbufOlen = some 1 ∧ (loaded []).tbufTcnt = some 1) := by decide

theorem witness_MovesTheHostDoesNotHaveAreRefused :
    (encLitState.status = .busy ∧ encLitState.cmd ≠ 1) ∧
    (({ State.reset with ibufN := some 2147483648 } : State).status ≠ .busy ∧
      ({ State.reset with ibufN := some 2147483648 } : State).cfg.nMax < 2147483648) := by decide

theorem witness_CandidateLengthIsCappedCommonPrefix :
    (6 : Nat) < 15 ∧ candidateLength a24 15 9 6 = 9 ∧ candidateLength a24 15 9 14 = 1 := by decide

theorem witness_SearchFindsTheNearestLongestMatch :
    (search a24 24 0 0 0).blen = 0 ∧ (0 : Nat) < 15 ∧ (search a24 24 15 0 0).bdist = 9 := by decide

/-- Clause 1 at its boundary: `4 ≥ 4`. -/
theorem witness_EncodeAbortsExactlyWhenTheGuardFires :
    (running .encode (encAt [1, 2, 3, 4] 1 [1]) = true ∧
      (encAt [1, 2, 3, 4] 1 [1]).enc.p < (encAt [1, 2, 3, 4] 1 [1]).enc.n ∧
      (encAt [1, 2, 3, 4] 1 [1]).enc.n ≤
        ((encAt [1, 2, 3, 4] 1 [1]).enc.cnt + (encAt [1, 2, 3, 4] 1 [1]).cfg.guardBias.val) * 4) ∧
    (∃ t, exec .encode (encAt [1, 2, 3, 4] 1 [1]) = .next t ∧ t.status = .error) := by
  refine ⟨by decide, ?_⟩
  obtain ⟨t, h, ht⟩ := next_of (o := exec .encode (encAt [1, 2, 3, 4] 1 [1]))
    (p := fun t => decide (t.status = .error)) (by decide)
  exact ⟨t, h, of_decide_eq_true ht⟩

theorem witness_EncodeEmitsTheMatchItFinds :
    running .encode encMatchState = true ∧ encMatchState.enc.p < encMatchState.enc.n ∧
    (encMatchState.enc.cnt + encMatchState.cfg.guardBias.val) * 4 < encMatchState.enc.n ∧
    memRead encMatchState.ibuf 0 encMatchState.enc.n = some a24 ∧
    2 < (search a24 encMatchState.enc.n encMatchState.enc.p encMatchState.enc.i encMatchState.enc.k).blen := by decide

theorem witness_EncodeEmitsALiteralOtherwise :
    running .encode encLitState = true ∧ encLitState.enc.p < encLitState.enc.n ∧
    (encLitState.enc.cnt + encLitState.cfg.guardBias.val) * 4 < encLitState.enc.n ∧
    memRead encLitState.ibuf 0 encLitState.enc.n = some a24 ∧
    (search a24 encLitState.enc.n encLitState.enc.p encLitState.enc.i encLitState.enc.k).blen ≤ 2 := by decide

/-- At P = N, and at P = N + 1 (R79). -/
theorem witness_EncodeCompletesWithCountAndLength :
    (running .encode (encAt [7] 1 [7]) = true ∧ (encAt [7] 1 [7]).enc.n ≤ (encAt [7] 1 [7]).enc.p) ∧
    (running .encode (encAt a24 25 []) = true ∧ (encAt a24 25 []).enc.n ≤ (encAt a24 25 []).enc.p) := by decide

theorem witness_EmittedTokensDescribeTheInput :
    running .encode encMatchState = true ∧ ∃ t, exec .encode encMatchState = .next t ∧ t.status = .busy := by
  refine ⟨by decide, ?_⟩
  obtain ⟨t, h, ht⟩ := next_of (o := exec .encode encMatchState) (p := fun t => decide (t.status = .busy)) (by decide)
  exact ⟨t, h, of_decide_eq_true ht⟩

/-- Room for one byte, and none. -/
theorem witness_LiteralsAppendTheirByte :
    (decAt .faithful 1 [0] 0 []).dec.cur < (decAt .faithful 1 [0] 0 []).dec.olen ∧
    (decAt .faithful 1 [0, 0] 1 [7]).dec.olen ≤ (decAt .faithful 1 [0, 0] 1 [7]).dec.cur := by decide

/-- `d` equal to the cursor; the copy fills the output exactly, and leaves room for the trailing byte. -/
theorem witness_MatchesCopyByteByByteAndAppend :
    (MatchSourceReady 3 decMatchState ∧ decMatchState.dec.cur + (3 : Byte).toNat ≤ decMatchState.dec.olen) ∧
    (MatchSourceReady 3 (decAt .faithful 6 [0, 0, 0, 0x00030364] 3 [0x61, 0x62, 0x63]) ∧
      (decAt .faithful 6 [0, 0, 0, 0x00030364] 3 [0x61, 0x62, 0x63]).dec.cur + (3 : Byte).toNat ≤
        (decAt .faithful 6 [0, 0, 0, 0x00030364] 3 [0x61, 0x62, 0x63]).dec.olen) :=
  ⟨⟨decMatch_source, by decide⟩, ⟨decExact_source, by decide⟩⟩

theorem witness_OverlappingCopiesRepeatPeriodically :
    MatchSourceReady 3 decMatchState ∧ decMatchState.dec.cur + (4 : Byte).toNat ≤ decMatchState.dec.olen ∧
    ∃ t, exec (.matchTok 3 4 0x64) decMatchState = .next t :=
  ⟨decMatch_source, by decide, next_exists (by decide)⟩

/-- The distance one above the cursor, and the largest. -/
theorem witness_MatchesBeforeTheStartRaise :
    (decMatchState.dec.cur : Int) < (4 : Dist).toInt ∧ (4 : Dist).toInt ≤ 8192 ∧
    (decMatchState.dec.cur : Int) < (8192 : Dist).toInt ∧ (8192 : Dist).toInt ≤ 8192 := by decide

/-- The output full; the last copied byte one too far; the copy just fitting. -/
theorem witness_OverrunsAreRaisedExactlyPastTheOutput :
    (decAt .faithful 1 [0, 0] 1 [7]).dec.olen ≤ (decAt .faithful 1 [0, 0] 1 [7]).dec.cur ∧
    (MatchSourceReady 3 (decAt .faithful 5 [0, 0, 0, 0x00030364] 3 [0x61, 0x62, 0x63]) ∧ (3 : Byte) ≠ 0 ∧
      (decAt .faithful 5 [0, 0, 0, 0x00030364] 3 [0x61, 0x62, 0x63]).dec.olen <
        (decAt .faithful 5 [0, 0, 0, 0x00030364] 3 [0x61, 0x62, 0x63]).dec.cur + (3 : Byte).toNat) ∧
    (MatchSourceReady 3 (decAt .faithful 6 [0, 0, 0, 0x00030364] 3 [0x61, 0x62, 0x63]) ∧
      (decAt .faithful 6 [0, 0, 0, 0x00030364] 3 [0x61, 0x62, 0x63]).dec.cur + (3 : Byte).toNat ≤
        (decAt .faithful 6 [0, 0, 0, 0x00030364] 3 [0x61, 0x62, 0x63]).dec.olen) :=
  ⟨by decide, ⟨decFull_source, by decide, by decide⟩, ⟨decExact_source, by decide⟩⟩

theorem witness_TokensOutsideTheRangeRaise :
    (-1 : Dist).toInt < 0 ∧ 8192 < (8193 : Dist).toInt ∧ (-32768 : Dist).toInt < 0 ∧ 8192 < (32767 : Dist).toInt := by
  decide

theorem witness_DecodeCompletesWithLengthAndFlag :
    running .decode (decAt .faithful 3 [] 0 []) = true ∧
    (decAt .faithful 3 [] 0 []).dec.tcnt ≤ (decAt .faithful 3 [] 0 []).dec.ti := by decide

theorem witness_TokensRunInOrder :
    running .decode decMatchState = true ∧ decMatchState.dec.ti < decMatchState.dec.tcnt ∧
    ∃ t, step decMatchState = .next t := ⟨by decide, by decide, next_exists (by decide)⟩

theorem witness_SerializeWritesTheHeader :
    running .serialize serHeadState = true ∧ serHeadState.phase = .header ∧ serHeadState.tbufOlen = some 1 := by decide

theorem witness_SerializeWritesATokenUnchanged :
    running .serialize serTokState = true ∧ serTokState.phase = .body ∧ serTokState.ser.ti < serTokState.ser.tcnt ∧
    memGet serTokState.tbuf serTokState.ser.ti = some 0x00000061 := by decide

theorem witness_SerializeCompletesWithTheSize :
    running .serialize serDoneState = true ∧ serDoneState.phase = .body ∧
    serDoneState.ser.tcnt ≤ serDoneState.ser.ti := by decide

theorem witness_SerializeNeverRaises :
    running .serialize serTokState = true ∧ ∃ t, exec .serialize serTokState = .next t :=
  ⟨by decide, next_exists (by decide)⟩

/-- PLEN 7 and 8, the length one short, the length right; and a PBUF too short at the header. -/
theorem witness_HeaderChecksInOrder :
    (desAt .header (List.replicate 7 0) 0 0 []).pbufPlen = some 7 ∧
    (desAt .header (List.replicate 8 0) 0 0 []).pbufPlen = some 8 ∧
    (desAt .header (List.replicate 11 0) 0 0 []).pbufPlen = some 11 ∧ desHeadState.pbufPlen = some 12 ∧
    running .deserialize (desAt .header (List.replicate 7 0) 0 0 []) = true ∧
    (desAt .header (List.replicate 7 0) 0 0 []).phase = .header := by decide

theorem witness_ValidHeadersAreLatched :
    (running .deserialize desHeadState = true ∧ desHeadState.phase = .header ∧ desHeadState.pbufPlen = some 12 ∧
      8 ≤ 12 ∧ memRead desHeadState.pbuf 0 8 = some [0, 0, 0, 1, 0, 0, 0, 1]) ∧
    (0 ≤ (1 : BitVec 32).toInt ∧ (1 : BitVec 32).toInt ≤ desHeadState.cfg.nMax ∧
      ((12 : Nat) : Int) = 8 + 4 * (1 : BitVec 32).toInt) ∧
    (2147483647 : BitVec 32).toInt ≤ desHeadState.cfg.nMax := by decide

theorem witness_DeserializeReadsATokenUnchanged :
    running .deserialize desTokState = true ∧ desTokState.phase = .body ∧
    (desTokState.des.ti : Int) < desTokState.des.tcnt.toInt ∧
    memRead desTokState.pbuf (8 + 4 * desTokState.des.ti) 4 = some [0, 0, 0, 0x61] := by decide

theorem witness_DeserializeCompletesWithTheHeader :
    running .deserialize desDoneState = true ∧ desDoneState.phase = .body ∧
    desDoneState.des.olen.toInt = (1 : Nat) ∧ desDoneState.des.tcnt.toInt = (1 : Nat) ∧ 1 ≤ desDoneState.des.ti := by
  decide

theorem witness_StatusMovesOnlyByItsRule :
    (decMatchState.status = .busy ∧ ∃ t, step decMatchState = .next t) ∧
    ((loaded [.writeCmd 0]).status ≠ .busy ∧ (∃ c rest, (loaded [.writeCmd 0]).host = .writeCmd c :: rest) ∧
      ∃ t, step (loaded [.writeCmd 0]) = .next t) :=
  ⟨⟨rfl, next_exists (by decide)⟩, ⟨by decide, ⟨0, [], rfl⟩, next_exists (by decide)⟩⟩

/-- One for each of the three units that can raise. -/
theorem witness_CausesComeFromTheirUnits :
    (∃ t, step (encAt [1, 2] 1 [1]) = .next t ∧ t.status = .error) ∧
    (∃ t, step (decAt .faithful 0 [0x61] 0 []) = .next t ∧ t.status = .error) ∧
    (∃ t, step (desAt .header (List.replicate 7 0) 0 0 []) = .next t ∧ t.status = .error) := by
  have h : ∀ s, nextIs (step s) (fun t => decide (t.status = .error)) = true →
      ∃ t, step s = .next t ∧ t.status = .error := fun s hs => by
    obtain ⟨t, h, ht⟩ := next_of hs
    exact ⟨t, h, of_decide_eq_true ht⟩
  exact ⟨h _ (by decide), h _ (by decide), h _ (by decide)⟩

theorem decMatch_destination : DestinationWritten decMatchState :=
  ⟨holdsExactly_of_keys (by decide), by decide⟩

/-- Clause by clause: a token that is illegal, one before the start, one past the output, one that runs. -/
theorem witness_DecoderReportsTheFirstFault :
    (running .decode decMatchState = true ∧ DestinationWritten decMatchState ∧
      decMatchState.dec.cur ≤ decMatchState.dec.olen ∧ decMatchState.dec.ti < decMatchState.dec.tcnt ∧
      memGet decMatchState.tbuf decMatchState.dec.ti = some 0x00030364) ∧
    (distField 0x20010100#32).toInt > 8192 ∧ (distField 0xFFFF0100#32).toInt < 0 ∧
    (distField 0x00040100#32).toInt > decMatchState.dec.cur ∧
    (distField 0x00030500#32).toInt = decMatchState.dec.cur ∧
    decMatchState.dec.olen < decMatchState.dec.cur + (lenField 0x00030500#32).toNat ∧
    decMatchState.dec.olen = decMatchState.dec.cur + (lenField 0x00030400#32).toNat := by
  exact ⟨⟨by decide, decMatch_destination, by decide, by decide, by decide⟩, by decide, by decide, by decide,
    by decide, by decide, by decide⟩

theorem witness_ErrorsInvalidateOnlyTheDestination :
    (encAt [1, 2] 1 [1]).status = .busy ∧ ∃ t, step (encAt [1, 2] 1 [1]) = .next t ∧ t.status = .error :=
  ⟨rfl, witness_CausesComeFromTheirUnits.1⟩

theorem witness_RunningCommandsWriteOnlyTheirDestination :
    serTokState.status = .busy ∧ ∃ t, step serTokState = .next t := ⟨rfl, next_exists (by decide)⟩

theorem witness_ControlRegistersKeepUntilTheNextCommand :
    (∃ t, step (decAt .faithful 3 [] 0 []) = .next t ∧ t.lenmis = true ∧
      (decAt .faithful 3 [] 0 []).lenmis = false) ∧
    ((loaded [.readCsr .cause]).status ≠ .busy ∧ (∀ c rest, (loaded [.readCsr .cause]).host ≠ .writeCmd c :: rest) ∧
      ∃ t, step (loaded [.readCsr .cause]) = .next t) ∧
    ((∃ c rest, (loaded [.writeCmd 2]).host = .writeCmd c :: rest) ∧ ∃ t, step (loaded [.writeCmd 2]) = .next t) := by
  refine ⟨?_, ⟨by decide, (fun c rest h => by cases h), next_exists (by decide)⟩, ⟨⟨2, [], rfl⟩, next_exists (by decide)⟩⟩
  obtain ⟨t, h, ht⟩ := next_of (o := step (decAt .faithful 3 [] 0 [])) (p := fun t => decide (t.lenmis = true))
    (by decide)
  exact ⟨t, h, of_decide_eq_true ht, rfl⟩

theorem witness_ParametersNeverChange : ∃ t, step desHeadState = .next t := next_exists (by decide)

theorem witness_HostMovesOnlyWhileNoCommandRuns :
    (serTokState.status = .busy ∧ ∃ t, step serTokState = .next t) ∧
    ((loaded [.readLen .pbufPlen]).status ≠ .busy ∧
      (∀ c rest, (loaded [.readLen .pbufPlen]).host ≠ .writeCmd c :: rest) ∧
      ∃ t, step (loaded [.readLen .pbufPlen]) = .next t) :=
  ⟨⟨rfl, next_exists (by decide)⟩, by decide, (fun c rest h => by cases h), next_exists (by decide)⟩

/-- The last byte below the length, and the last cell of the space; a length at its register's limit. -/
theorem witness_HostReadsBackWhatItWrote :
    ((loaded [.writeByte .ibuf 23 7, .readByte .ibuf 23]).status ≠ .busy ∧
      (loaded [.writeByte .ibuf 23 7, .readByte .ibuf 23]).len (lengthOf .ibuf) = some 24 ∧ 23 < 24 ∧
      23 < byteCapacity (loaded []).cfg .ibuf) ∧
    ((loaded [.writeToken 0 7, .readToken 0]).tbufTcnt = some 1 ∧ 0 < (loaded []).cfg.nMax) ∧
    (8589934595 < byteCapacity (loaded []).cfg .pbuf) ∧
    ((loaded [.writeLen .pbufPlen 8589934596, .readLen .pbufPlen]).status ≠ .busy ∧
      8589934596 ≤ lenLimit (loaded []).cfg .pbufPlen) := by decide

theorem witness_HostReadsOfNoValueFault :
    ((hostAt [.readByte .obuf 0]).status ≠ .busy ∧ memGet ((hostAt [.readByte .obuf 0]).bytes .obuf) 0 = none) ∧
    memGet (hostAt [.readToken 0]).tbuf 0 = none ∧
    ({ hostAt [.readLen .obufLen] with status := .error, obufLen := none } : State).len .obufLen = none := by decide

/-! ### Running states that meet the invariants -/

theorem encMatch_range : RegistersInRange encMatchState := by
  refine ⟨by decide, ⟨by decide, by decide, by decide, by decide, by decide, by decide, by decide, by decide, by decide,
    by decide⟩, ⟨by decide, by decide, by decide, by decide, by decide, by decide⟩, by decide, by decide, by decide,
    fun h => ?_, ?_, ?_, ?_, ?_, ?_, by decide⟩
  · exact absurd h (by decide)
  all_goals simp [encMatchState, encAt, State.reset, Config.default, a24]

theorem serTok_range : RegistersInRange serTokState := by
  refine ⟨by decide, ⟨by decide, by decide, by decide, by decide, by decide, by decide, by decide, by decide, by decide,
    by decide⟩, ⟨by decide, by decide, by decide, by decide, by decide, by decide⟩, by decide, by decide, by decide,
    fun h => ?_, ?_, ?_, ?_, ?_, ?_, by decide⟩
  · exact absurd h (by decide)
  all_goals simp [serTokState, serAt, State.reset, Config.default]

theorem desTok_range : RegistersInRange desTokState := by
  refine ⟨by decide, ⟨by decide, by decide, by decide, by decide, by decide, by decide, by decide, by decide, by decide,
    by decide⟩, ⟨by decide, by decide, by decide, by decide, by decide, by decide⟩, by decide, by decide, by decide,
    fun _ _ => by decide, ?_, ?_, ?_, ?_, ?_, by decide⟩
  all_goals simp [desTokState, desAt, desBytes, State.reset, Config.default]

theorem decMatch_range : RegistersInRange decMatchState := by
  refine ⟨by decide, ⟨by decide, by decide, by decide, by decide, by decide, by decide, by decide, by decide, by decide,
    by decide⟩, ⟨by decide, by decide, by decide, by decide, by decide, by decide⟩, by decide, by decide, by decide,
    fun h => ?_, ?_, ?_, ?_, ?_, ?_, by decide⟩
  · exact absurd h (by decide)
  all_goals simp [decMatchState, decAt, State.reset, Config.default]

theorem encMatch_ready : RunReady encMatchState :=
  ⟨(holdsExactly_of_keys (m := encMatchState.ibuf) (n := 24) (by decide)).below,
    ⟨holdsExactly_of_keys (by decide), rfl, rfl⟩⟩

theorem decMatch_ready : RunReady decMatchState :=
  ⟨(holdsExactly_of_keys (m := decMatchState.tbuf) (n := 4) (by decide)).below, decMatch_destination⟩

theorem serTok_ready : RunReady serTokState :=
  ⟨⟨(holdsExactly_of_keys (m := serTokState.tbuf) (n := 1) (by decide)).below, by decide⟩,
    ⟨holdsExactly_of_keys (by decide), rfl, fun h => by cases h⟩⟩

theorem desTok_ready : RunReady desTokState :=
  ⟨⟨12, rfl, (holdsExactly_of_keys (m := desTokState.pbuf) (n := 12) (by decide)).below, fun _ => by decide⟩,
    ⟨holdsExactly_of_keys (by decide), rfl, rfl⟩⟩

theorem witness_BuffersStayCanonical : MemoriesCanonical encMatchState ∧ ∃ t, step encMatchState = .next t :=
  ⟨⟨by decide, by decide, by decide, by decide⟩, next_exists (by decide)⟩

theorem witness_RegistersStayInRange : RegistersInRange encMatchState ∧ ∃ t, step encMatchState = .next t :=
  ⟨encMatch_range, next_exists (by decide)⟩

theorem witness_BuffersStayInTheirSpaces :
    RegistersInRange encMatchState ∧ BuffersInSpace encMatchState ∧ ∃ t, step encMatchState = .next t := by
  refine ⟨encMatch_range, ⟨?_, ?_, ?_, ?_⟩, next_exists (by decide)⟩
  · exact (holdsExactly_of_keys (m := encMatchState.ibuf) (n := 24) (by decide)).within (by decide)
  · exact (holdsExactly_of_keys (m := encMatchState.tbuf) (n := 5) (by decide)).within (by decide)
  · exact (holdsExactly_of_keys (m := encMatchState.obuf) (n := 0) (by decide)).within (by decide)
  · exact (holdsExactly_of_keys (m := encMatchState.pbuf) (n := 0) (by decide)).within (by decide)

theorem witness_ControlStaysConsistent : ControlConsistent decMatchState ∧ ∃ t, step decMatchState = .next t :=
  ⟨⟨by decide, by decide, by decide⟩, next_exists (by decide)⟩

theorem witness_RunningCommandsWriteTheirDestinationInOrder :
    (serTokState.status = .busy → DestinationWritten serTokState) ∧ serTokState.status = .busy ∧
    ∃ t, step serTokState = .next t ∧ t.status = .busy := by
  refine ⟨fun _ => serTok_ready.destination, rfl, ?_⟩
  obtain ⟨t, h, ht⟩ := next_of (o := step serTokState) (p := fun t => decide (t.status = .busy)) (by decide)
  exact ⟨t, h, of_decide_eq_true ht⟩

/-- One running state of each command. -/
theorem witness_RunningCommandsProgress :
    (encMatchState.status = .busy ∧ RunReady encMatchState ∧ RegistersInRange encMatchState) ∧
    (decMatchState.status = .busy ∧ RunReady decMatchState ∧ RegistersInRange decMatchState) ∧
    (serTokState.status = .busy ∧ RunReady serTokState ∧ RegistersInRange serTokState) ∧
    (desTokState.status = .busy ∧ RunReady desTokState ∧ RegistersInRange desTokState) :=
  ⟨⟨rfl, encMatch_ready, encMatch_range⟩, ⟨rfl, decMatch_ready, decMatch_range⟩, ⟨rfl, serTok_ready, serTok_range⟩,
    ⟨rfl, desTok_ready, desTok_range⟩⟩

theorem witness_CommandsEndWithinTheirBound :
    desTokState.status = .busy ∧ RunReady desTokState ∧ RegistersInRange desTokState :=
  ⟨rfl, desTok_ready, desTok_range⟩

/-- Two states that differ, in latches and idle units only. -/
theorem witness_UnitStateIsNeverObserved :
    observable decMatchState =
      observable { decMatchState with dec := { decMatchState.dec with d := 7, k := 9 }, ser := { ti := 1, tcnt := 2 } } ∧
    decMatchState ≠
      { decMatchState with dec := { decMatchState.dec with d := 7, k := 9 }, ser := { ti := 1, tcnt := 2 } } := by
  decide

theorem witness_SerializeThenDeserializeIsIdentity :
    (loaded []).status ≠ .busy ∧ (loaded []).tbufTcnt = some 1 ∧ (loaded []).tbufOlen = some 1 ∧
    1 ≤ (loaded []).cfg.nMax ∧ (loaded []).cfg.nMax ≤ 2147483647 ∧ HoldsBelow (loaded []).tbuf 1 :=
  ⟨by decide, rfl, rfl, by decide, by decide, (holdsExactly_of_keys (by decide)).below⟩

/-- PBUF of the loaded block passes the checks: four steps, the CMD write, header, token and completion. -/
theorem witness_DeserializeThenSerializeIsIdentity :
    (loaded []).status ≠ .busy ∧ (loaded []).pbufPlen = some 12 ∧ HoldsBelow (loaded []).pbuf 12 ∧
    ∃ t, runs 4 (issue .deserialize (loaded [])) = .next t ∧ t.status = .done ∧ t.host = [] := by
  refine ⟨by decide, rfl, (holdsExactly_of_keys (by decide)).below, ?_⟩
  obtain ⟨t, h, ht⟩ := next_of (o := runs 4 (issue .deserialize (loaded [])))
    (p := fun t => decide (t.status = .done ∧ t.host = [])) (by decide)
  exact ⟨t, h, of_decide_eq_true ht⟩

/-- The block with the input `inp` in IBUF. -/
def withInput (inp : List Byte) : State :=
  { State.reset with ibuf := memWrite [] 0 inp, ibufN := some inp.length }

/-- Six times `a` and a zero byte, repeated: ENCODE makes (0,0,a) three times, (3,3,0) at P = 3, whose byte is a zero of
the input, and two longer matches. -/
def zeroInput : List Byte :=
  [0x61, 0x61, 0x61, 0x61, 0x61, 0x61, 0, 0x61, 0x61, 0x61, 0x61, 0x61, 0x61, 0, 0x61, 0x61, 0x61, 0x61, 0x61, 0x61, 0,
    0x61, 0x61, 0x61]

/-- The premises on the input, and the inner premise: one byte, encoded without a lossy zero, and the policy `fixed`. -/
theorem witness_EncodeThenDecodeIsIdentity :
    ((loaded []).status ≠ .busy ∧ (loaded []).ibufN = some 24 ∧ 24 ≤ (loaded []).cfg.nMax ∧
      HoldsBelow (loaded []).ibuf 24) ∧
    (∃ t, runs 3 (issue .encode (withInput [7])) = .next t ∧ t.host = [] ∧ t.status = .done ∧ ¬ LossyZero t) ∧
    ({ loaded [] with cfg := { Config.default with zeroPolicy := .fixed } } : State).cfg.zeroPolicy = .fixed := by
  refine ⟨⟨by decide, rfl, by decide, (holdsExactly_of_keys (by decide)).below⟩, ?_, rfl⟩
  obtain ⟨t, h, ht⟩ := next_of (o := runs 3 (issue .encode (withInput [7])))
    (p := fun t => decide (t.host = [] ∧ t.status = .done ∧ ¬ ∃ i, i < t.tbufTcnt.getD 0 ∧ lossyAt t i = true))
    (by decide)
  have hp := of_decide_eq_true ht
  exact ⟨t, h, hp.1, hp.2.1, hp.2.2⟩

/-- The CMD write, six tokens and the completion. -/
theorem witness_LossyZerosShortenTheOutput :
    ((withInput zeroInput).status ≠ .busy ∧ (withInput zeroInput).ibufN = some 24 ∧
      24 ≤ (withInput zeroInput).cfg.nMax ∧ (withInput zeroInput).cfg.zeroPolicy = .faithful) ∧
    HoldsBelow (withInput zeroInput).ibuf 24 ∧
    ∃ t, runs 8 (issue .encode (withInput zeroInput)) = .next t ∧ t.host = [] ∧ t.status = .done ∧ LossyZero t := by
  refine ⟨by decide, (holdsExactly_of_keys (by decide)).below, ?_⟩
  obtain ⟨t, h, ht⟩ := next_of (o := runs 8 (issue .encode (withInput zeroInput)))
    (p := fun t => decide (t.host = [] ∧ t.status = .done ∧ ∃ i, i < t.tbufTcnt.getD 0 ∧ lossyAt t i = true))
    (by decide)
  have hp := of_decide_eq_true ht
  exact ⟨t, h, hp.1, hp.2.1, hp.2.2⟩

/-- The last byte of IBUF, the token of TBUF, a length, and a control register. -/
theorem witness_HostReadsGiveWhatIsThere :
    ((loaded [.readByte .ibuf 23]).status ≠ .busy ∧ (loaded [.readByte .ibuf 23]).len (lengthOf .ibuf) = some 24 ∧
      23 < 24 ∧ memGet ((loaded [.readByte .ibuf 23]).bytes .ibuf) 23 = some 0x61) ∧
    ((loaded [.readToken 0]).tbufTcnt = some 1 ∧ 0 < 1 ∧ memGet (loaded [.readToken 0]).tbuf 0 = some 0x61) ∧
    (loaded [.readLen .pbufPlen]).len .pbufPlen = some 12 ∧
    ((loaded [.readCsr .cause]).status ≠ .busy ∧ (loaded [.readCsr .cause]).host = [.readCsr .cause]) := by decide

/-- R18, R19, R130: the host reads STATUS 3, CAUSE 5 after OUTPUT_OVERRUN, and FLAGS 1 after a short DECODE. -/
theorem test_read_csr :
    nextIs (step { hostAt [.readCsr .status] with status := .error }) (fun t => decide (t.hostIn = 3)) = true ∧
    nextIs (step { hostAt [.readCsr .cause] with status := .error, cause := .outputOverrun })
      (fun t => decide (t.hostIn = 5)) = true ∧
    nextIs (step { hostAt [.readCsr .flags] with status := .done, lenmis := true })
      (fun t => decide (t.hostIn = 1)) = true := by decide

end Sys2Proof.Tests
end

section
/-! PROOFS. What each pass, start and host move can do to STATUS (R18), and the obligation on STATUS that follows. -/

namespace Sys2Proof.Machine

/-! ### Updates that leave STATUS as it is -/

@[simp] theorem setBytes_status (s : State) (sp : ByteSpace) (m : ByteMem) : (s.setBytes sp m).status = s.status := by
  cases sp <;> rfl

@[simp] theorem setLen_status (s : State) (r : LenReg) (n : Nat) : (s.setLen r n).status = s.status := by
  cases r <;> rfl

@[simp] theorem encSearch_status (inp : List Byte) (s : State) : (encSearch inp s).status = s.status := rfl

@[simp] theorem encEmit_status (inp : List Byte) (s : State) : (encEmit inp s).status = s.status := by
  unfold encEmit
  split
  · exact encMatch_status inp s
  · exact encLiteral_status inp s

@[simp] theorem appendTrailing_status (b : Byte) (s : State) : (appendTrailing b s).status = s.status := by
  obtain ⟨-, h⟩ | ⟨-, h⟩ := appendTrailing_cases b s <;> rw [h]
  exact append_status b s

/-! ### The passes: STATUS stays, or the command completes, or it raises -/

theorem encPass_status {s t : State} (h : encPass s = .next t) :
    t.status = s.status ∨ t.status = .done ∨ t.status = .error := by
  obtain ⟨-, -, rfl⟩ | ⟨-, -, inp, -, rfl⟩ | ⟨-, rfl⟩ := encPass_cases h
  · exact .inr (.inr (raise_status ..))
  · exact .inl (by simp)
  · exact .inr (.inl (encFinish_status s))

/-- A token never completes the command: R92 leaves that to the end of the stream. -/
theorem tokWordRun_status {w : TokWord} {s t : State} (h : tokWordRun w s = .next t) :
    t.status = s.status ∨ t.status = .error := by
  obtain ⟨-, hw⟩ | ⟨-, hw⟩ | ⟨-, -, hw⟩ := tokWordRun_cases w s <;> rw [hw] at h
  case inl => cases h; exact .inr (raise_status ..)
  case inr.inl =>
    obtain ⟨-, hl⟩ | ⟨-, hl⟩ := tokLit_cases (lenField w) (byteField w) s <;> rw [hl] at h <;> cases h
    · exact .inr (raise_status ..)
    · exact .inl (by simp)
  case inr.inr =>
    obtain ⟨-, rfl⟩ | ⟨-, m, cur, k, -, rfl⟩ | ⟨-, m, cur, k, -, rfl⟩ := tokMatch_cases h
    · exact .inr (raise_status ..)
    · exact .inl (by simp)
    · exact .inr (raise_status ..)

theorem decPass_status {s t : State} (h : decPass s = .next t) :
    t.status = s.status ∨ t.status = .done ∨ t.status = .error := by
  obtain ⟨-, w, -, hw⟩ | ⟨-, rfl⟩ := decPass_cases h
  · exact (tokWordRun_status hw).imp_right .inr
  · exact .inr (.inl (decFinish_status s))

/-- R110: SERIALIZE has no error. -/
theorem serPass_status {s t : State} (h : serPass s = .next t) : t.status = s.status ∨ t.status = .done := by
  obtain ⟨-, olen, -, rfl⟩ | ⟨-, -, w, -, rfl⟩ | ⟨-, -, rfl⟩ := serPass_cases h
  · exact .inl rfl
  · exact .inl rfl
  · exact .inr (serFinish_status s)

theorem desHeader_status (plen : Nat) (olen tcnt : BitVec 32) (s : State) :
    (desHeader plen olen tcnt s).status = s.status ∨ (desHeader plen olen tcnt s).status = .error := by
  obtain ⟨-, h⟩ | ⟨-, -, h⟩ | ⟨-, -, -, h⟩ | ⟨-, -, -, h⟩ := desHeader_cases plen olen tcnt s <;> rw [h]
  · exact .inr (raise_status ..)
  · exact .inr (raise_status ..)
  · exact .inr (raise_status ..)
  · exact .inl (latchHeader_status olen tcnt s)

theorem desPass_status {s t : State} (h : desPass s = .next t) :
    t.status = s.status ∨ t.status = .done ∨ t.status = .error := by
  obtain ⟨-, plen, -, -, rfl⟩ | ⟨-, plen, b0, b1, b2, b3, b4, b5, b6, b7, -, -, -, rfl⟩ |
    ⟨-, -, b0, b1, b2, b3, -, rfl⟩ | ⟨-, -, rfl⟩ := desPass_cases h
  · exact .inr (.inr (raise_status ..))
  · exact (desHeader_status ..).imp_right .inr
  · exact .inl rfl
  · exact .inr (.inl (desFinish_status s))

theorem passOf_status {c : Command} {s t : State} (h : passOf c s = .next t) :
    t.status = s.status ∨ t.status = .done ∨ t.status = .error := by
  cases c with
  | encode => exact encPass_status h
  | decode => exact decPass_status h
  | serialize => exact (serPass_status h).imp_right .inl
  | deserialize => exact desPass_status h

/-! ### The host's turn -/

/-- R17: a command that starts is BUSY. -/
theorem startOf_status {c : Command} {s t : State} (h : startOf c s = .next t) : t.status = .busy := by
  obtain ⟨-, n, -, -, rfl⟩ | ⟨-, olen, tcnt, -, -, rfl⟩ | ⟨-, olen, tcnt, -, -, rfl⟩ | ⟨-, plen, -, rfl⟩ :=
    startOf_cases h
  · exact start_status .encode s
  · exact start_status .decode s
  · exact start_status .serialize s
  · exact start_status .deserialize s

/-- R18: no host move but a CMD write changes STATUS. -/
theorem hostMove_status {m : HostMove} {s t : State} (hm : ∀ c, m ≠ .writeCmd c) (h : hostMove m s = .next t) :
    t.status = s.status := by
  obtain ⟨sp, a, v, -, -, rfl⟩ | ⟨x, w, -, -, rfl⟩ | ⟨r, n, -, -, rfl⟩ | ⟨v, rfl⟩ := hostMove_cases hm h
  · exact setBytes_status ..
  · rfl
  · exact setLen_status ..
  · rfl

/-! ### The steps -/

theorem step_status_of_busy {s t : State} (hb : s.status = .busy) (h : step s = .next t) :
    t.status = .busy ∨ t.status = .done ∨ t.status = .error :=
  hb ▸ passOf_status (step_busy hb ▸ h)

theorem step_status_of_writeCmd {s t : State} {c : CmdCode} {rest : List HostMove} (hb : s.status ≠ .busy)
    (hh : s.host = .writeCmd c :: rest) (h : step s = .next t) : t.status = .busy :=
  startOf_status (step_writeCmd hb hh ▸ h)

theorem step_status_of_free {s t : State} (hb : s.status ≠ .busy) (h : step s = .next t) :
    t.status = s.status ∨ (t.status = .busy ∧ ∃ c rest, s.host = .writeCmd c :: rest) := by
  obtain ⟨hbusy, -⟩ | ⟨-, -, rfl⟩ | ⟨-, c, rest, hh, hs⟩ | ⟨-, m, rest, -, hm, hs⟩ := step_cases h
  · exact absurd hbusy hb
  · exact .inl rfl
  · exact .inr ⟨startOf_status hs, c, rest, hh⟩
  · exact .inl (hostMove_status hm hs :)

/-- Settles O36, from what a step of a running command, a CMD write and any other step without a running command do to
STATUS. -/
theorem statusMovesOnlyByItsRule : Obligations.StatusMovesOnlyByItsRule := by
  refine ⟨⟨rfl, rfl, rfl, rfl⟩, fun s t h => ⟨fun hb => ?_, fun hb => ?_, fun hb hw => ?_⟩⟩
  · exact step_status_of_busy hb h
  · exact step_status_of_free hb h
  · obtain ⟨c, rest, hh⟩ := hw
    exact step_status_of_writeCmd hb hh h

end Sys2Proof.Machine
end

section
/-! PROOFS. The byte order of the persisted fields as numbers (R30, R51), and the obligation on it. -/

namespace Sys2Proof

/-! ### The fields of a word put together -/

@[simp] theorem distField_tokWord (d : Dist) (l b : Byte) : distField (tokWord d l b) = d := by
  apply BitVec.eq_of_toNat_eq
  rw [toNat_distField, toNat_tokWord]
  omega

@[simp] theorem lenField_tokWord (d : Dist) (l b : Byte) : lenField (tokWord d l b) = l := by
  apply BitVec.eq_of_toNat_eq
  rw [toNat_lenField, toNat_tokWord]
  omega

@[simp] theorem byteField_tokWord (d : Dist) (l b : Byte) : byteField (tokWord d l b) = b := by
  apply BitVec.eq_of_toNat_eq
  rw [toNat_byteField, toNat_tokWord]
  omega

/-! ### Byte order (R30) -/

theorem extract_byte_eq_ofNat {w : Nat} (v : BitVec w) (lo : Nat) :
    v.extractLsb' lo 8 = BitVec.ofNat 8 (v.toNat / 2 ^ lo) := by
  apply BitVec.eq_of_toNat_eq
  rw [toNat_extract, BitVec.toNat_ofNat]

theorem getElem?_bytes32 (v : BitVec 32) {j : Nat} (hj : j < 4) :
    (bytes32 v)[j]? = some (BitVec.ofNat 8 (v.toNat / 256 ^ (3 - j))) := by
  unfold bytes32
  simp only [extract_byte_eq_ofNat]
  interval_cases j <;> rfl

theorem toNat_be32 (b0 b1 b2 b3 : Byte) :
    (be32 b0 b1 b2 b3).toNat = 16777216 * b0.toNat + 65536 * b1.toNat + 256 * b2.toNat + b3.toNat := by
  have h : (be32 b0 b1 b2 b3).toNat = (((b0 ++ b1) ++ b2) ++ b3).toNat := rfl
  rw [h, toNat_append_eq, toNat_append_eq, toNat_append_eq]
  omega

/-- R51: the bytes of a word in address order, by its fields. -/
theorem bytes32_eq_fields (w : TokWord) :
    bytes32 w = [(distField w).extractLsb' 8 8, (distField w).extractLsb' 0 8, lenField w, byteField w] := by
  have hi : w.extractLsb' 24 8 = (distField w).extractLsb' 8 8 := by
    apply BitVec.eq_of_toNat_eq
    rw [toNat_extract, toNat_extract, toNat_distField]
    omega
  have lo : w.extractLsb' 16 8 = (distField w).extractLsb' 0 8 := by
    apply BitVec.eq_of_toNat_eq
    rw [toNat_extract, toNat_extract, toNat_distField]
    omega
  rw [bytes32, hi, lo, lenField, byteField]

theorem bytes32_tokWord (d : Dist) (l b : Byte) :
    bytes32 (tokWord d l b) = [d.extractLsb' 8 8, d.extractLsb' 0 8, l, b] := by
  rw [bytes32_eq_fields, distField_tokWord, lenField_tokWord, byteField_tokWord]

/-- Settles O3, from the bytes of a token by its fields, the bytes of a 32-bit pattern and the pattern of four bytes. -/
theorem persistedFieldsAreBigEndian : Obligations.PersistedFieldsAreBigEndian := by
  refine ⟨fun d l b => ⟨_, _, bytes32_tokWord d l b, ?hi, ?lo⟩, fun v _ hj => getElem?_bytes32 v hj, toNat_be32⟩
  case hi =>
    rw [toNat_extract]
    omega
  case lo =>
    rw [toNat_extract]
    omega

end Sys2Proof
end

section
/-! PROOFS. What the compare loop and the scan of the search answer (R74 to R77), and the obligation on the match
length. -/

namespace Sys2Proof.Machine

/-! ### The match length of a candidate (R76) -/

section
variable (inp : List Byte) (p maxlen i : Nat)

theorem candidateLength_le_maxlen : candidateLength inp p maxlen i ≤ maxlen := by
  obtain ⟨-, hle, -, -⟩ := matchFrom_spec inp p maxlen i maxlen 0
  rwa [Nat.zero_add] at hle

/-- Within its match length a candidate stays below the position, and its bytes are those at the position. -/
theorem candidateLength_agree {j : Nat} (hj : j < candidateLength inp p maxlen i) :
    i + j < p ∧ inp[i + j]? = inp[p + j]? := by
  obtain ⟨-, -, hall, -⟩ := matchFrom_spec inp p maxlen i maxlen 0
  obtain ⟨hp, -, heq⟩ := hall j j.zero_le hj
  exact ⟨hp, heq⟩

/-- R76: a match ends at the distance of its candidate. -/
theorem add_candidateLength_le (hi : i ≤ p) : i + candidateLength inp p maxlen i ≤ p := by
  cases hl : candidateLength inp p maxlen i with
  | zero => exact hi
  | succ len =>
    obtain ⟨hlast, -⟩ := candidateLength_agree inp p maxlen i (j := len) (by omega)
    omega

/-- R76: a match that ends before both caps ends at a mismatch. -/
theorem candidateLength_mismatch (hcap : candidateLength inp p maxlen i < maxlen)
    (hdist : i + candidateLength inp p maxlen i < p) :
    inp[i + candidateLength inp p maxlen i]? ≠ inp[p + candidateLength inp p maxlen i]? := by
  obtain ⟨-, -, -, hstop⟩ := matchFrom_spec inp p maxlen i maxlen 0
  exact fun heq => hstop (by rwa [Nat.zero_add]) ⟨hdist, hcap, heq⟩

end

/-- Settles O13, from the caps, the agreement below the match length and the mismatch at its end. -/
theorem candidateLengthIsCappedCommonPrefix : Obligations.CandidateLengthIsCappedCommonPrefix :=
  fun inp p maxlen i hi =>
    ⟨candidateLength_le_maxlen inp p maxlen i, add_candidateLength_le inp p maxlen i (Nat.le_of_lt hi),
      fun _ hj => (candidateLength_agree inp p maxlen i hj).2, candidateLength_mismatch inp p maxlen i⟩

/-! ### The result of the search (R77) -/

/-- R77: the scan keeps the result it began with, or answers the length and the distance of a candidate it scanned. -/
theorem scan_result (inp : List Byte) (p maxlen left i : Nat) (best : Best) :
    ((scan inp p maxlen left i best).blen = best.blen ∧ (scan inp p maxlen left i best).bdist = best.bdist) ∨
    ∃ c, i ≤ c ∧ c < i + left ∧ (scan inp p maxlen left i best).blen = candidateLength inp p maxlen c ∧
      (scan inp p maxlen left i best).bdist = p - c := by
  induction left generalizing i best with
  | zero => exact .inl ⟨rfl, rfl⟩
  | succ left ih =>
    rw [scan]
    obtain ⟨hlen, hdist⟩ | ⟨c, hlo, hhi, hc⟩ := ih (i + 1) (better inp p maxlen i best)
    · rw [hlen, hdist, better]
      split
      · exact .inr ⟨i, by omega, by omega, rfl, rfl⟩
      · exact .inl ⟨rfl, rfl⟩
    · exact .inr ⟨c, by omega, by omega, hc⟩

/-- R78: the search answers (0, 0), or the length and the distance of a candidate of the window. -/
theorem search_result (inp : List Byte) (n p i k : Nat) :
    ((search inp n p i k).blen = 0 ∧ (search inp n p i k).bdist = 0) ∨
    ∃ c, p - 8192 ≤ c ∧ c < p ∧ (search inp n p i k).blen = candidateLength inp p (maxLength n p) c ∧
      (search inp n p i k).bdist = p - c := by
  obtain h | ⟨c, hlo, hhi, hc⟩ := scan_result inp p (maxLength n p) (p - windowLo p) (windowLo p)
    { blen := 0, bdist := 0, i := i, k := k }
  · exact .inl h
  · rw [windowLo_eq] at hlo hhi
    exact .inr ⟨c, hlo, by omega, hc⟩

/-- R84: no match is longer than MAX_MATCH. -/
theorem search_blen_le (inp : List Byte) (n p i k : Nat) : (search inp n p i k).blen ≤ 255 := by
  obtain ⟨hlen, -⟩ | ⟨c, -, -, hlen, -⟩ := search_result inp n p i k
  · omega
  · have hcap := candidateLength_le_maxlen inp p (maxLength n p) c
    rw [maxLength_eq] at hcap hlen
    omega

/-- R84: no match is further away than WINDOW_SIZE. -/
theorem search_bdist_le (inp : List Byte) (n p i k : Nat) : (search inp n p i k).bdist ≤ 8192 := by
  obtain ⟨-, hdist⟩ | ⟨c, hlo, -, -, hdist⟩ := search_result inp n p i k
  · omega
  · omega

end Sys2Proof.Machine
end

section
/-! PROOFS. The pass of ENCODE case by case: guard (R73, R82), emission (R79, R80), completion (R81), and the
obligations on each; the start of ENCODE and DECODE (R71, R91). -/

namespace Sys2Proof.Machine

/-! ### What a pass answers (R72) -/

theorem exec_encode_running {s : State} (h : running .encode s = true) : exec .encode s = encPass s :=
  exec_running h

section
variable {s : State}

theorem encPass_guard (hp : s.enc.p < s.enc.n) (hg : guardFires s.cfg s.enc.cnt s.enc.n = true) :
    encPass s = .next (raise .encode .incompressible s.enc.p s) := by
  rw [encPass, if_pos hp, if_pos hg]

theorem encPass_emit {inp : List Byte} (hp : s.enc.p < s.enc.n)
    (hg : guardFires s.cfg s.enc.cnt s.enc.n = false) (hi : memRead s.ibuf 0 s.enc.n = some inp) :
    encPass s = .next (encEmit inp (encSearch inp s)) := by
  simp only [encPass, if_pos hp, hg, hi, Bool.false_eq_true, if_false]

theorem encPass_finish (hp : s.enc.n ≤ s.enc.p) : encPass s = .next (encFinish s) := by
  rw [encPass, if_neg (Nat.not_lt.2 hp)]

theorem encEmit_match (inp : List Byte) (h : 2 < s.enc.blen) : encEmit inp s = encMatch inp s := if_pos h

theorem encEmit_literal (inp : List Byte) (h : s.enc.blen ≤ 2) : encEmit inp s = encLiteral inp s :=
  if_neg (Nat.not_lt.2 h)

end

/-! ### Guard and completion -/

/-- Settles O15: a pass raises when the guard fires, and its other two answers are no ERROR. -/
theorem encodeAbortsExactlyWhenTheGuardFires : Obligations.EncodeAbortsExactlyWhenTheGuardFires := by
  refine ⟨fun s hrun hp hg => ?_, fun s t hrun h herr => ?_⟩
  · rw [exec_encode_running hrun, encPass_guard hp ((guardFires_iff ..).2 hg)]
    rfl
  · rw [exec_encode_running hrun] at h
    obtain ⟨hp, hg, -⟩ | ⟨-, -, inp, -, rfl⟩ | ⟨-, rfl⟩ := encPass_cases h
    · exact ⟨hp, (guardFires_iff ..).1 hg⟩
    · obtain ⟨hbusy, -⟩ := (running_iff .encode s).1 hrun
      rw [encEmit_status, encSearch_status, hbusy] at herr
      cases herr
    · cases herr

/-- Settles O18: the completion is the only answer with no input left. -/
theorem encodeCompletesWithCountAndLength : Obligations.EncodeCompletesWithCountAndLength := by
  intro s hrun hp
  rw [exec_encode_running hrun, encPass_finish hp]
  rfl

/-! ### Emission -/

/-- A write of one cell leaves every other cell as it is. -/
theorem sameOutside_memSet {α : Type} (m : List (Nat × α)) (a : Nat) (v : α) :
    SameOutside m (memSet m a v) a (a + 1) :=
  fun _ hx => memGet_memSet_other m v (by omega)

theorem getElem?_eq_some_getD {inp : List Byte} {a : Nat} (h : a < inp.length) : inp[a]? = some (inp.getD a 0) := by
  rw [List.getD_eq_getElem _ _ h, List.getElem?_eq_getElem h]

/-- R79: the trailing byte is the input's where the input goes on, else 0. -/
theorem some_trailingByte {inp : List Byte} {n : Nat} (hn : inp.length = n) (a : Nat) :
    some (trailingByte inp n a) = if a < n then inp[a]? else some 0 := by
  unfold trailingByte
  split
  · next ha => exact (getElem?_eq_some_getD (hn ▸ ha)).symm
  · rfl

/-- R53: a distance of the window reads back from its pattern as it is. -/
theorem toInt_ofNat_dist {d : Nat} (h : d ≤ 8192) : (BitVec.ofNat 16 d).toInt = d := by
  have hd : (BitVec.ofNat 16 d).toNat = d := by rw [BitVec.toNat_ofNat]; omega
  rw [toInt_dist, hd, if_pos (by omega)]

/-- Settles O16: the token emitted has the search's distance and length, which fit their fields, and the byte after the
match. -/
theorem encodeEmitsTheMatchItFinds : Obligations.EncodeEmitsTheMatchItFinds := by
  intro s inp hrun hp hg hi hlen
  refine ⟨encMatch inp (encSearch inp s), _, ?pass, rfl, memGet_memSet_same .., sameOutside_memSet _ _ _,
    ?distance, ?length, ?byte⟩
  case pass =>
    rw [exec_encode_running hrun, encPass_emit hp ((guardFires_false_iff ..).2 hg) hi, encEmit_match inp hlen]
  case distance =>
    rw [distField_tokWord]
    exact toInt_ofNat_dist (search_bdist_le ..)
  case length =>
    rw [lenField_tokWord]
    exact Nat.mod_eq_of_lt (Nat.lt_succ_of_le (search_blen_le ..))
  case byte =>
    rw [byteField_tokWord]
    exact some_trailingByte (memRead_length hi) _

/-- Settles O17: the byte at the position is there, since the position is below the input's length. -/
theorem encodeEmitsALiteralOtherwise : Obligations.EncodeEmitsALiteralOtherwise := by
  intro s inp hrun hp hg hi hlen
  have hbyte : inp[s.enc.p]? = some (inp.getD s.enc.p 0) := getElem?_eq_some_getD (memRead_length hi ▸ hp)
  refine ⟨encLiteral inp (encSearch inp s), _, ?pass, hbyte, rfl, memGet_memSet_same .., sameOutside_memSet _ _ _⟩
  case pass =>
    rw [exec_encode_running hrun, encPass_emit hp ((guardFires_false_iff ..).2 hg) hi, encEmit_literal inp hlen]

/-! ### Starts -/

theorem encStart_next {s : State} {n : Nat} (hn : s.ibufN = some n) (hle : n ≤ s.cfg.nMax) :
    encStart s = .next { start .encode s with enc := { s.enc with n := n, p := 0, cnt := 0 } } := by
  simp only [encStart, hn, if_pos hle]

theorem decStart_next {s : State} {olen tcnt : Nat} (ho : s.tbufOlen = some olen) (ht : s.tbufTcnt = some tcnt) :
    decStart s =
      .next { start .decode s with dec := { s.dec with olen := olen, tcnt := tcnt, ti := 0, cur := 0 } } := by
  simp only [decStart, ho, ht]

/-- Settles O11, from what the two starts answer. -/
theorem commandsInitialiseTheirRegisters : Obligations.CommandsInitialiseTheirRegisters := by
  refine ⟨fun s n hb hn hle => ?_, fun s olen tcnt hb ho ht => ?_⟩
  · exact ⟨_, (exec_free (c := .encode) hb).trans (encStart_next hn hle), rfl, rfl, rfl⟩
  · exact ⟨_, (exec_free (c := .decode) hb).trans (decStart_next ho ht), rfl, rfl, rfl, rfl, memGet_nil⟩

end Sys2Proof.Machine
end

section
/-! PROOFS. What DECODE does with a literal (R94) and with a MATCH that fits (R95 to R97), its completion (R98), and the
obligations on them. -/

namespace Sys2Proof.Machine

/-! ### Completion -/

theorem decPass_finish {s : State} (hti : s.dec.tcnt ≤ s.dec.ti) : decPass s = .next (decFinish s) := by
  rw [decPass, if_neg (Nat.not_lt.2 hti)]

/-- Settles O26: with no token left the pass is the completion. -/
theorem decodeCompletesWithLengthAndFlag : Obligations.DecodeCompletesWithLengthAndFlag := by
  intro s hrun hti
  have hexec : exec .decode s = decPass s := exec_running hrun
  rw [hexec, decPass_finish hti]
  rfl

/-! ### Errors and literals -/

/-- R139: a raise of DECODE, in a state whose token did no more than change latches, output and cursor. -/
theorem decodeRaised_raise (c : Cause) {s u : State} (hu : u = { s with obuf := u.obuf, dec := u.dec })
    (hti : u.dec.ti = s.dec.ti) (holen : u.dec.olen = s.dec.olen) (htcnt : u.dec.tcnt = s.dec.tcnt) :
    DecodeRaised c s (raise .decode c s.dec.ti u) :=
  ⟨by rw [hu]; rfl, hti, holen, htcnt⟩

section
variable {s : State} (l b : Byte)

theorem tokLit_appends (hroom : s.dec.cur < s.dec.olen) : ∃ t, tokLit l b s = .next t ∧ LitEffect l b s t := by
  obtain ⟨hfull, -⟩ | ⟨-, h⟩ := tokLit_cases l b s
  · exact absurd hroom (Nat.not_lt.2 hfull)
  · exact ⟨_, h, rfl, memGet_memSet_same .., sameOutside_memSet _ _ _⟩

theorem tokLit_overruns (hfull : s.dec.olen ≤ s.dec.cur) :
    ∃ t, tokLit l b s = .next t ∧ DecodeRaised .outputOverrun s t := by
  obtain ⟨-, h⟩ | ⟨hroom, -⟩ := tokLit_cases l b s
  · exact ⟨_, h, decodeRaised_raise _ rfl rfl rfl rfl⟩
  · exact absurd hroom (Nat.not_lt.2 hfull)

end

/-- Settles O20: the three rows are `tokLit` at their own length and byte. -/
theorem literalsAppendTheirByte : Obligations.LiteralsAppendTheirByte := fun l b _ =>
  ⟨fun hroom => ⟨tokLit_appends 0 b hroom, tokLit_appends l b hroom, tokLit_appends 0 0 hroom⟩,
    fun hfull => ⟨tokLit_overruns 0 b hfull, tokLit_overruns l b hfull, tokLit_overruns 0 0 hfull⟩⟩

/-! ### Matches -/

/-- The copy of a MATCH starts below the cursor: its distance is positive and no larger than the cursor. -/
theorem MatchSourceReady.start_lt {d : Dist} {s : State} (h : MatchSourceReady d s) :
    s.dec.cur - d.toNat < s.dec.cur := by
  obtain ⟨hleast, hmost, hwithin, -⟩ := h
  rw [BitVec.toInt_eq_toNat_cond] at hleast hmost hwithin
  split at hleast <;> omega

section
variable {d : Dist} {l : Byte} {s : State} {m : ByteMem} {cur k : Nat}

/-- R95: the state after the copy of a MATCH, before its trailing byte. -/
def copied (d : Dist) (l b : Byte) (m : ByteMem) (cur k : Nat) (s : State) : State :=
  { s with
    obuf := m
    dec := { s.dec with d := d, l := l, b := b, start := s.dec.cur - d.toNat, cur := cur, k := k } }

@[simp] theorem copied_obuf (b : Byte) : (copied d l b m cur k s).obuf = m := rfl

theorem tokMatch_moved (b : Byte) (hwithin : d.toInt ≤ (s.dec.cur : Int))
    (hcopy : copyBytes s.dec.olen (s.dec.cur - d.toNat) l.toNat 0 s.dec.k s.obuf s.dec.cur = .moved m cur k) :
    tokMatch d l b s = .next (nextToken (appendTrailing b (copied d l b m cur k s))) := by
  simp only [tokMatch, if_neg (Int.not_lt.2 hwithin), hcopy]
  rfl

/-- R96, R97: whether the trailing byte follows is decided at the cursor the copy left, and it is written there. -/
theorem appendTrailing_copied (d : Dist) (l b : Byte) (m : ByteMem) (cur k : Nat) (s : State) :
    (TrailingAppended b cur s ∧
      appendTrailing b (copied d l b m cur k s) = copied d l b (memSet m cur b) (cur + 1) k s) ∨
    (¬ TrailingAppended b cur s ∧ appendTrailing b (copied d l b m cur k s) = copied d l b m cur k s) :=
  appendTrailing_cases b (copied d l b m cur k s)

/-- A completed copy, with its trailing byte or without, is the effect of the MATCH: the trailing byte lies past the
copied cells and their sources, so it leaves the copy's recurrence as it is. -/
theorem matchEffect_of_moved (b : Byte) (hstart : s.dec.cur - d.toNat < s.dec.cur)
    (hcopy : copyBytes s.dec.olen (s.dec.cur - d.toNat) l.toNat 0 s.dec.k s.obuf s.dec.cur = .moved m cur k) :
    MatchEffect d l b s (nextToken (appendTrailing b (copied d l b m cur k s))) := by
  obtain ⟨hcur, -, -, hold, hnew, hrecOf⟩ := copyBytes_moved hcopy
  have hrec : ∀ j, j < l.toNat → memGet m (s.dec.cur + j) = memGet m (s.dec.cur - d.toNat + j) := hrecOf hstart
  rw [MatchEffect, ← hcur]
  rw [← hcur] at hold
  obtain ⟨hpresent, happ⟩ | ⟨habsent, happ⟩ := appendTrailing_copied d l b m cur k s <;> rw [happ]
  case inl =>
    have hbelow : ∀ a, a < cur → memGet (memSet m cur b) a = memGet m a :=
      fun a ha => memGet_memSet_other m b (Nat.ne_of_lt ha)
    refine ⟨rfl, fun j hj => ?copy, fun _ => ⟨rfl, memGet_memSet_same m cur b⟩,
      fun habsent => absurd hpresent habsent, fun a (ha : a < s.dec.cur ∨ cur + 1 ≤ a) => ?frame⟩
    case copy =>
      rw [nextToken_obuf, copied_obuf, hbelow _ (by omega), hbelow _ (by omega)]
      exact ⟨hnew j hj, hrec j hj⟩
    case frame =>
      exact (memGet_memSet_other m b (by omega)).trans (hold a (by omega))
  case inr =>
    exact ⟨rfl, fun j hj => ⟨hnew j hj, hrec j hj⟩, fun hpresent => absurd hpresent habsent, fun _ => rfl, hold⟩

theorem tokMatch_fits (b : Byte) (hsrc : MatchSourceReady d s) (hfit : s.dec.cur + l.toNat ≤ s.dec.olen) :
    ∃ t, tokMatch d l b s = .next t ∧ MatchEffect d l b s t := by
  obtain ⟨m, k, hcopy⟩ := copyBytes_fits (k := 0) (kOld := s.dec.k) (.inl hsrc.start_lt) hsrc.written hfit
  exact ⟨_, tokMatch_moved b hsrc.within hcopy, matchEffect_of_moved b hsrc.start_lt hcopy⟩

end

/-- Settles O21: both rows are `tokMatch`, MATCH.END with the byte 0. -/
theorem matchesCopyByteByByteAndAppend : Obligations.MatchesCopyByteByByteAndAppend := fun _ _ b _ hsrc hfit =>
  ⟨tokMatch_fits b hsrc hfit, tokMatch_fits 0 hsrc hfit⟩

end Sys2Proof.Machine
end

section
/-! PROOFS. A pass of SERIALIZE on a token (R112) and its completion (R113), with the rules for a write of several
cells that the token needs, and the obligations on both. -/

namespace Sys2Proof.Machine

/-! ### A write of several cells -/

/-- A cell of the written range reads back the value written there. -/
theorem memGet_memWrite_add {α : Type} (m : List (Nat × α)) (a : Nat) {vs : List α} {j : Nat} (hj : j < vs.length) :
    memGet (memWrite m a vs) (a + j) = vs[j]? := by
  rw [memGet_memWrite, if_pos ⟨Nat.le_add_right a j, Nat.add_lt_add_left hj a⟩, Nat.add_sub_cancel_left]

theorem sameOutside_memWrite {α : Type} (m : List (Nat × α)) (a : Nat) (vs : List α) :
    SameOutside m (memWrite m a vs) a (a + vs.length) := by
  intro x hx
  rw [memGet_memWrite, if_neg (by omega)]

@[simp] theorem length_bytes32 (v : BitVec 32) : (bytes32 v).length = 4 := rfl

/-! ### What a pass answers (R172) -/

theorem exec_serialize_running {s : State} (h : running .serialize s = true) : exec .serialize s = serPass s :=
  exec_running h

section
variable {s : State}

theorem serPass_token {w : TokWord} (hph : s.phase = .body) (hti : s.ser.ti < s.ser.tcnt)
    (hw : memGet s.tbuf s.ser.ti = some w) :
    serPass s = .next { s with
      pbuf := memWrite s.pbuf (tokenOffset s.ser.ti) (bytes32 w)
      ser := { s.ser with ti := s.ser.ti + 1 } } := by
  simp only [serPass, hph, if_pos hti, serToken, hw]

theorem serPass_finish (hph : s.phase = .body) (hti : s.ser.tcnt ≤ s.ser.ti) : serPass s = .next (serFinish s) := by
  simp only [serPass, hph, if_neg (Nat.not_lt.2 hti)]

end

/-- Settles O29: the pass writes the four bytes of the word at the token's offset, and nothing else of PBUF. -/
theorem serializeWritesATokenUnchanged : Obligations.SerializeWritesATokenUnchanged := by
  intro s w hrun hph hti hw
  refine ⟨_, (exec_serialize_running hrun).trans (serPass_token hph hti hw), rfl, fun j hj => ?bytes, ?frame⟩
  case bytes =>
    rw [← tokenOffset_eq]
    exact (memGet_memWrite_add s.pbuf (tokenOffset s.ser.ti) hj).trans (getElem?_bytes32 w hj)
  case frame =>
    have hend : 12 + 4 * s.ser.ti = tokenOffset s.ser.ti + (bytes32 w).length := by
      rw [tokenOffset_eq, length_bytes32]
      omega
    rw [hend, ← tokenOffset_eq]
    exact sameOutside_memWrite s.pbuf (tokenOffset s.ser.ti) (bytes32 w)

/-- Settles O30: with no token left the pass is the completion. -/
theorem serializeCompletesWithTheSize : Obligations.SerializeCompletesWithTheSize := by
  intro s hrun hph hti
  rw [exec_serialize_running hrun, serPass_finish hph hti, serFinish, persistedSize_eq]

end Sys2Proof.Machine
end

section
/-! PROOFS. A pass of DESERIALIZE on a token (R123), and the obligation on it. -/

namespace Sys2Proof.Machine

theorem desPass_token {s : State} {b0 b1 b2 b3 : Byte} (hph : s.phase = .body)
    (hti : (s.des.ti : Int) < headerValue s.des.tcnt)
    (hread : memRead s.pbuf (tokenOffset s.des.ti) tokenBytes = some [b0, b1, b2, b3]) :
    desPass s = .next { s with
      tbuf := memSet s.tbuf s.des.ti (be32 b0 b1 b2 b3)
      des := { s.des with ti := s.des.ti + 1 } } := by
  simp only [desPass, hph, if_pos hti, desToken, hread]

/-- Settles O34: the pass writes the four bytes, put together as one word, at TI, and nothing else of TBUF. -/
theorem deserializeReadsATokenUnchanged : Obligations.DeserializeReadsATokenUnchanged := by
  intro s b0 b1 b2 b3 hrun hph hti hread
  rw [← tokenOffset_eq] at hread
  have hexec : exec .deserialize s = desPass s := exec_running hrun
  exact ⟨_, be32 b0 b1 b2 b3, hexec.trans (desPass_token hph hti hread), rfl,
    memGet_memSet_same s.tbuf s.des.ti _, toNat_be32 b0 b1 b2 b3, sameOutside_memSet s.tbuf s.des.ti _⟩

end Sys2Proof.Machine
end

section
/-! PROOFS. How DECODE's tokens raise ILLEGAL_TOKEN (R133), REF_BEFORE_START (R134) and OUTPUT_OVERRUN (R135), and when
they raise none, with the obligations on them. -/

namespace Sys2Proof.Machine

section
variable {d : Dist} {l : Byte} {s t : State} (b : Byte)

/-! ### Raised before any effect (R133, R134) -/

/-- A raise of DECODE on the latched token, before the token moved anything: the cursor too is as it was. -/
theorem decodeRaised_latch (c : Cause) (d : Dist) (l b : Byte) (s : State) :
    DecodeRaised c s (raise .decode c s.dec.ti (latch d l b s)) ∧
      (raise .decode c s.dec.ti (latch d l b s)).dec.cur = s.dec.cur :=
  ⟨decodeRaised_raise c rfl rfl rfl rfl, rfl⟩

theorem tokMatch_beforeStart (hbefore : (s.dec.cur : Int) < d.toInt) :
    tokMatch d l b s = .next (raise .decode .refBeforeStart s.dec.ti (latch d l b s)) := by
  rw [tokMatch, if_pos hbefore]

theorem tokMatch_raises_refBeforeStart (hbefore : (s.dec.cur : Int) < d.toInt) :
    ∃ t, tokMatch d l b s = .next t ∧ DecodeRaised .refBeforeStart s t ∧ t.dec.cur = s.dec.cur :=
  ⟨_, tokMatch_beforeStart b hbefore, decodeRaised_latch ..⟩

/-! ### A copy without room, and one with room (R135) -/

theorem tokMatch_full {m : ByteMem} {cur k : Nat} (hwithin : d.toInt ≤ (s.dec.cur : Int))
    (hcopy : copyBytes s.dec.olen (s.dec.cur - d.toNat) l.toNat 0 s.dec.k s.obuf s.dec.cur = .full m cur k) :
    tokMatch d l b s = .next (raise .decode .outputOverrun s.dec.ti (copied d l b m cur k s)) := by
  simp only [tokMatch, if_neg (Int.not_lt.2 hwithin), hcopy]
  rfl

theorem tokMatch_overruns (hsrc : MatchSourceReady d s) (hl : l ≠ 0) (hover : s.dec.olen < s.dec.cur + l.toNat) :
    ∃ t, tokMatch d l b s = .next t ∧ DecodeRaised .outputOverrun s t := by
  have hleft : l.toNat ≠ 0 := fun h => hl (BitVec.eq_of_toNat_eq h)
  obtain ⟨m, cur, k, hcopy⟩ :=
    copyBytes_overruns (k := 0) (kOld := s.dec.k) (.inl hsrc.start_lt) hsrc.written hleft hover
  exact ⟨_, tokMatch_full b hsrc.within hcopy, decodeRaised_raise _ rfl rfl rfl rfl⟩

theorem MatchEffect.status_eq {b : Byte} (h : MatchEffect d l b s t) : t.status = s.status := by
  obtain ⟨heq, -⟩ := h
  rw [heq]

theorem MatchEffect.cause_eq {b : Byte} (h : MatchEffect d l b s t) : t.cause = s.cause := by
  obtain ⟨heq, -⟩ := h
  rw [heq]

theorem tokMatch_raises_nothing (hsrc : MatchSourceReady d s) (hfit : s.dec.cur + l.toNat ≤ s.dec.olen) :
    ∃ t, tokMatch d l b s = .next t ∧ t.status = s.status ∧ t.cause = s.cause := by
  obtain ⟨t, hnext, heffect⟩ := tokMatch_fits b hsrc hfit
  exact ⟨t, hnext, heffect.status_eq, heffect.cause_eq⟩

end

/-- Settles O24: a literal raises where the output is full; a copy ends without room exactly where its bytes pass the
output's length, and where they fit the token's effect, trailing byte or none, leaves STATUS and CAUSE. -/
theorem overrunsAreRaisedExactlyPastTheOutput : Obligations.OverrunsAreRaisedExactlyPastTheOutput :=
  ⟨fun l b _ hfull => ⟨tokLit_overruns 0 b hfull, tokLit_overruns l b hfull, tokLit_overruns 0 0 hfull⟩,
    fun _ _ b _ hsrc hl hover => ⟨tokMatch_overruns b hsrc hl hover, tokMatch_overruns 0 hsrc hl hover⟩,
    fun _ _ b _ hsrc hfit => ⟨tokMatch_raises_nothing b hsrc hfit, tokMatch_raises_nothing 0 hsrc hfit⟩⟩

/-- Settles O23: the distance is compared with the cursor before the copy, so only the latches have changed. -/
theorem matchesBeforeTheStartRaise : Obligations.MatchesBeforeTheStartRaise := fun _ _ b _ hbefore _ =>
  ⟨tokMatch_raises_refBeforeStart b hbefore, tokMatch_raises_refBeforeStart 0 hbefore⟩

/-- Settles O25: ILLEGAL is its raise on the latched token, whatever its distance. -/
theorem tokensOutsideTheRangeRaise : Obligations.TokensOutsideTheRangeRaise := fun d l b s _ =>
  ⟨_, rfl, decodeRaised_latch .illegalToken d l b s⟩

end Sys2Proof.Machine
end

section
/-! PROOFS. The token word and its fields (R68), the classes of token words (R58), and decoder and encoder as inverses
of each other, with the obligations on them. -/

namespace Sys2Proof

open Machine

/-! ### Fields and bytes put together again -/

/-- R68: a word is its three fields. -/
@[simp] theorem tokWord_fields (w : TokWord) : tokWord (distField w) (lenField w) (byteField w) = w := by
  apply BitVec.eq_of_toNat_eq
  rw [toNat_tokWord, toNat_distField, toNat_lenField, toNat_byteField]
  omega

/-- Settles O2, from the fields of a word put together and the word of its fields. -/
theorem tokenWordAndFieldsAreInverse : Obligations.TokenWordAndFieldsAreInverse :=
  ⟨fun d l b => ⟨distField_tokWord d l b, lenField_tokWord d l b, byteField_tokWord d l b⟩, tokWord_fields⟩

/-- R30: the bytes of a pattern give the pattern. -/
@[simp] theorem be32_extract (v : BitVec 32) :
    be32 (v.extractLsb' 24 8) (v.extractLsb' 16 8) (v.extractLsb' 8 8) (v.extractLsb' 0 8) = v := by
  apply BitVec.eq_of_toNat_eq
  rw [toNat_be32, toNat_extract, toNat_extract, toNat_extract, toNat_extract]
  omega

/-- R30: the pattern of four bytes has these bytes. -/
@[simp] theorem bytes32_be32 (b0 b1 b2 b3 : Byte) : bytes32 (be32 b0 b1 b2 b3) = [b0, b1, b2, b3] := by
  have h0 : (be32 b0 b1 b2 b3).extractLsb' 24 8 = b0 := by
    apply BitVec.eq_of_toNat_eq
    rw [toNat_extract, toNat_be32]
    omega
  have h1 : (be32 b0 b1 b2 b3).extractLsb' 16 8 = b1 := by
    apply BitVec.eq_of_toNat_eq
    rw [toNat_extract, toNat_be32]
    omega
  have h2 : (be32 b0 b1 b2 b3).extractLsb' 8 8 = b2 := by
    apply BitVec.eq_of_toNat_eq
    rw [toNat_extract, toNat_be32]
    omega
  have h3 : (be32 b0 b1 b2 b3).extractLsb' 0 8 = b3 := by
    apply BitVec.eq_of_toNat_eq
    rw [toNat_extract, toNat_be32]
    omega
  rw [bytes32, h0, h1, h2, h3]

/-! ### The rows of the decoder (R58, R66, R67) -/

theorem matchDistance_iff (d : Dist) : matchDistance d = true ↔ 1 ≤ d.toInt ∧ d.toInt ≤ 8192 := by
  unfold matchDistance windowSize
  exact decide_eq_true_iff

/-- A signed distance is 0 exactly where its pattern is. -/
theorem toInt_dist_eq_zero_iff (d : Dist) : d.toInt = 0 ↔ d = 0 :=
  ⟨fun h => BitVec.eq_of_toInt_eq h, fun h => h ▸ rfl⟩

/-- R58: of the three ranges of distances exactly one holds a given distance. -/
theorem matchDistance_of_legal {d : Dist} (hlegal : illegalDistance d = false) (h0 : d ≠ 0) :
    matchDistance d = true := by
  rw [← Bool.not_eq_true, illegalDistance_iff] at hlegal
  have hne : d.toInt ≠ 0 := mt (toInt_dist_eq_zero_iff d).mp h0
  rw [matchDistance_iff]
  omega

theorem legal_of_matchDistance {d : Dist} (h : matchDistance d = true) : illegalDistance d = false ∧ d ≠ 0 := by
  rw [matchDistance_iff] at h
  have hne : d.toInt ≠ 0 := by omega
  rw [← Bool.not_eq_true, illegalDistance_iff]
  exact ⟨by omega, mt (toInt_dist_eq_zero_iff d).mpr hne⟩

/-- Everything the decoder makes of a token word: the row, and what the row asks of the word's fields. -/
theorem decodeToken_cases (w : TokWord) :
    (illegalDistance (distField w) = true ∧
      decodeToken w = .illegal (distField w) (lenField w) (byteField w)) ∨
    (distField w = 0 ∧ lenField w = 0 ∧ byteField w = 0 ∧ decodeToken w = .zlit) ∨
    (distField w = 0 ∧ lenField w = 0 ∧ byteField w ≠ 0 ∧ decodeToken w = .lit (byteField w)) ∨
    (distField w = 0 ∧ lenField w ≠ 0 ∧ decodeToken w = .litNC (lenField w) (byteField w)) ∨
    (matchDistance (distField w) = true ∧ byteField w = 0 ∧
      decodeToken w = .matchEnd (distField w) (lenField w)) ∨
    (matchDistance (distField w) = true ∧ byteField w ≠ 0 ∧
      decodeToken w = .matchTok (distField w) (lenField w) (byteField w)) := by
  unfold decodeToken
  by_cases hi : illegalDistance (distField w) = true
  · exact .inl ⟨hi, if_pos hi⟩
  rw [if_neg hi]
  refine .inr ?_
  by_cases h0 : distField w = 0
  · rw [if_pos h0]
    by_cases hl : lenField w = 0
    · rw [if_pos hl]
      by_cases hb : byteField w = 0
      · exact .inl ⟨h0, hl, hb, if_pos hb⟩
      · exact .inr (.inl ⟨h0, hl, hb, if_neg hb⟩)
    · exact .inr (.inr (.inl ⟨h0, hl, if_neg hl⟩))
  · have hm := matchDistance_of_legal ((Bool.not_eq_true _).mp hi) h0
    rw [if_neg h0]
    by_cases hb : byteField w = 0
    · exact .inr (.inr (.inr (.inl ⟨hm, hb, if_pos hb⟩)))
    · exact .inr (.inr (.inr (.inr ⟨hm, hb, if_neg hb⟩)))

theorem encode_decodeToken (w : TokWord) : encode (decodeToken w) = bytes32 w := by
  obtain ⟨-, h⟩ | ⟨hd, hl, hb, h⟩ | ⟨hd, hl, -, h⟩ | ⟨hd, -, h⟩ | ⟨-, hb, h⟩ | ⟨-, -, h⟩ := decodeToken_cases w <;>
    rw [h, encode]
  · rw [tokWord_fields]
  · rw [← tokWord_fields w, hd, hl, hb]
  · nth_rw 2 [← tokWord_fields w]
    rw [hd, hl]
  · nth_rw 3 [← tokWord_fields w]
    rw [hd]
  · nth_rw 3 [← tokWord_fields w]
    rw [hb]
  · rw [tokWord_fields]

theorem wellFormed_decodeToken (w : TokWord) : wellFormed (decodeToken w) = true := by
  obtain ⟨hi, h⟩ | ⟨-, -, -, h⟩ | ⟨-, -, hb, h⟩ | ⟨-, hl, h⟩ | ⟨hm, -, h⟩ | ⟨hm, hb, h⟩ := decodeToken_cases w <;>
    rw [h, wellFormed]
  · exact hi
  · exact decide_eq_true hb
  · exact decide_eq_true hl
  · exact hm
  · rw [hm, decide_eq_true hb, Bool.and_self]

theorem form_decodeToken (w : TokWord) : (decodeToken w).form = .token := by
  obtain ⟨-, h⟩ | ⟨-, -, -, h⟩ | ⟨-, -, -, h⟩ | ⟨-, -, h⟩ | ⟨-, -, h⟩ | ⟨-, -, h⟩ := decodeToken_cases w <;>
    rw [h, Instr.form]

/-- The decoder gives a well-formed token back from its word. -/
theorem decodeToken_tokWord (d : Dist) (l b : Byte) :
    decodeToken (tokWord d l b) =
      if illegalDistance d then .illegal d l b
      else if d = 0 then (if l = 0 then (if b = 0 then .zlit else .lit b) else .litNC l b)
      else if b = 0 then .matchEnd d l else .matchTok d l b := by
  simp only [decodeToken, distField_tokWord, lenField_tokWord, byteField_tokWord]

theorem decodeToken_literal (l b : Byte) :
    decodeToken (tokWord 0 l b) = if l = 0 then (if b = 0 then .zlit else .lit b) else .litNC l b := by
  rw [decodeToken_tokWord, if_neg (by decide), if_pos rfl]

theorem decodeToken_reference {d : Dist} (h : matchDistance d = true) (l b : Byte) :
    decodeToken (tokWord d l b) = if b = 0 then .matchEnd d l else .matchTok d l b := by
  obtain ⟨hlegal, h0⟩ := legal_of_matchDistance h
  rw [decodeToken_tokWord, hlegal, if_neg Bool.false_ne_true, if_neg h0]

/-! ### Decoder and encoder -/

theorem decodeBytes_bytes32 (w : TokWord) (rest : List Byte) :
    decodeBytes .token (bytes32 w ++ rest) = .ok (decodeToken w, rest) := by
  nth_rw 2 [← be32_extract w]
  rfl

theorem decodeBytes_header_bytes32 (olen tcnt : BitVec 32) (rest : List Byte) :
    decodeBytes .header (bytes32 olen ++ bytes32 tcnt ++ rest) = .ok (.stream olen tcnt, rest) := by
  nth_rw 2 [← be32_extract olen, ← be32_extract tcnt]
  rfl

/-- Settles O6: a token is read back from its word row by row, a header and a command by their bytes. -/
theorem decodeOfEncodeIsIdentity : Obligations.DecodeOfEncodeIsIdentity := by
  intro i rest hwf
  cases i with
  | lit b =>
    have hb : b ≠ 0 := of_decide_eq_true hwf
    exact (decodeBytes_bytes32 _ rest).trans (by rw [decodeToken_literal, if_pos rfl, if_neg hb])
  | matchTok d l b =>
    obtain ⟨hd, hb⟩ := (Bool.and_eq_true ..).mp hwf
    exact (decodeBytes_bytes32 _ rest).trans (by rw [decodeToken_reference hd, if_neg (of_decide_eq_true hb)])
  | illegal d l b =>
    have hd : illegalDistance d = true := hwf
    exact (decodeBytes_bytes32 _ rest).trans (by rw [decodeToken_tokWord, if_pos hd])
  | litNC l b =>
    have hl : l ≠ 0 := of_decide_eq_true hwf
    exact (decodeBytes_bytes32 _ rest).trans (by rw [decodeToken_literal, if_neg hl])
  | matchEnd d l =>
    have hd : matchDistance d = true := hwf
    exact (decodeBytes_bytes32 _ rest).trans (by rw [decodeToken_reference hd, if_pos rfl])
  | zlit => exact (decodeBytes_bytes32 _ rest).trans (by rw [decodeToken_literal, if_pos rfl, if_pos rfl])
  | stream olen tcnt => exact decodeBytes_header_bytes32 olen tcnt rest
  | encode => rfl
  | decode => rfl
  | serialize => rfl
  | deserialize => rfl

/-- The byte of a command code is the encoding of the command it decodes to. -/
theorem encode_decodeCmd (c : CmdCode) : encode (decodeCmd c) = [c.setWidth 8] := by
  revert c
  decide

theorem wellFormed_decodeCmd (c : CmdCode) : wellFormed (decodeCmd c) = true := by
  revert c
  decide

theorem form_decodeCmd (c : CmdCode) : (decodeCmd c).form = .cmd := by
  revert c
  decide

/-- A byte that is a command code is its own two low bits. -/
theorem setWidth_extract_of_lt {b : Byte} (hb : b.toNat < 4) : (b.extractLsb' 0 2).setWidth 8 = b := by
  apply BitVec.eq_of_toNat_eq
  rw [BitVec.toNat_setWidth, toNat_extract]
  omega

/-- Settles O7, format by format: what the decoder reads is the command, the token or the header of the front bytes. -/
theorem encodeOfDecodeIsIdentity : Obligations.EncodeOfDecodeIsIdentity := by
  intro f bs rest i h
  unfold decodeBytes at h
  split at h
  case h_1 b tail =>
    split at h
    · next hb =>
      cases h
      refine ⟨wellFormed_decodeCmd _, form_decodeCmd _, ?_⟩
      rw [encode_decodeCmd, setWidth_extract_of_lt hb]
      rfl
    · cases h
  case h_2 b0 b1 b2 b3 tail =>
    cases h
    refine ⟨wellFormed_decodeToken _, form_decodeToken _, ?_⟩
    rw [encode_decodeToken, bytes32_be32]
    rfl
  case h_3 b0 b1 b2 b3 b4 b5 b6 b7 tail =>
    cases h
    refine ⟨rfl, rfl, ?_⟩
    rw [encode, bytes32_be32, bytes32_be32]
    rfl
  case h_4 => cases h

/-- Settles O5: each word is evaluated. -/
theorem wordsOfTheSpecDecode : Obligations.WordsOfTheSpecDecode :=
  ⟨by decide, by decide, by decide, by decide, by decide, by decide, by decide, rfl, rfl, rfl, rfl, rfl⟩

/-! ### The classes (R58) -/

/-- R58: the class of the decoded word, by its distance. -/
theorem classOf_decodeToken (w : TokWord) :
    ((distField w).toInt = 0 ∧ classOf (decodeToken w) = some .literal) ∨
    ((1 ≤ (distField w).toInt ∧ (distField w).toInt ≤ 8192) ∧ classOf (decodeToken w) = some .reference) ∨
    (((distField w).toInt < 0 ∨ 8192 < (distField w).toInt) ∧ classOf (decodeToken w) = some .outside) := by
  obtain ⟨hd, h⟩ | ⟨hd, -, -, h⟩ | ⟨hd, -, -, h⟩ | ⟨hd, -, h⟩ | ⟨hd, -, h⟩ | ⟨hd, -, h⟩ := decodeToken_cases w <;>
    rw [h, classOf]
  · exact .inr (.inr ⟨(illegalDistance_iff _).mp hd, rfl⟩)
  · exact .inl ⟨hd ▸ rfl, rfl⟩
  · exact .inl ⟨hd ▸ rfl, rfl⟩
  · exact .inl ⟨hd ▸ rfl, rfl⟩
  · exact .inr (.inl ⟨(matchDistance_iff _).mp hd, rfl⟩)
  · exact .inr (.inl ⟨(matchDistance_iff _).mp hd, rfl⟩)

/-- A mask of all bits from `k` on keeps the multiple of `2 ^ k`. -/
theorem and_highMask (w : TokWord) (k : Nat) : w &&& (BitVec.allOnes 32 <<< k) = (w >>> k) <<< k := by
  ext i hi
  rw [BitVec.getElem_and, BitVec.getElem_shiftLeft, BitVec.getElem_shiftLeft, BitVec.getElem_allOnes]
  by_cases hk : i < k
  · simp [hk]
  · simp [hk, Nat.add_sub_cancel' (Nat.not_lt.mp hk), BitVec.getLsbD_eq_getElem hi]

theorem toNat_and_highMask (w : TokWord) (k : Nat) :
    (w &&& (BitVec.allOnes 32 <<< k)).toNat = w.toNat / 2 ^ k * 2 ^ k := by
  have hle : w.toNat / 2 ^ k * 2 ^ k < 2 ^ 32 := Nat.lt_of_le_of_lt (Nat.div_mul_le_self _ _) w.isLt
  rw [and_highMask, BitVec.toNat_shiftLeft, BitVec.toNat_ushiftRight, Nat.shiftLeft_eq, Nat.shiftRight_eq_div_pow,
    Nat.mod_eq_of_lt hle]

theorem toNat_and_distMask (w : TokWord) : (w &&& 0xFFFF0000#32).toNat = (distField w).toNat * 65536 := by
  rw [toNat_distField]
  exact toNat_and_highMask w 16

theorem toNat_and_topMask (w : TokWord) :
    (w &&& 0xE0000000#32).toNat = (distField w).toNat / 8192 * 536870912 := by
  have h : (w &&& 0xE0000000#32).toNat = w.toNat / 536870912 * 536870912 := toNat_and_highMask w 29
  rw [h, toNat_distField]
  omega

/-- Settles O4: the class is that of the signed distance, and the masks compare the distance's number. -/
theorem tokenClassFollowsDistance : Obligations.TokenClassFollowsDistance := by
  intro w
  have hlit : w &&& 0xFFFF0000#32 = 0#32 ↔ (distField w).toNat = 0 := by
    rw [← BitVec.toNat_inj, toNat_and_distMask, BitVec.toNat_zero]
    omega
  have hsmall : w &&& 0xE0000000#32 = 0#32 ↔ (distField w).toNat < 8192 := by
    rw [← BitVec.toNat_inj, toNat_and_topMask, BitVec.toNat_zero]
    omega
  have hmax : w &&& 0xFFFF0000#32 = 0x20000000#32 ↔ (distField w).toNat = 8192 := by
    rw [← BitVec.toNat_inj, toNat_and_distMask, BitVec.toNat_ofNat]
    omega
  have hsigned := toInt_dist (distField w)
  have hlt := (distField w).isLt
  rw [ne_eq, hlit, hsmall, hmax]
  obtain ⟨hd, h⟩ | ⟨hd, h⟩ | ⟨hd, h⟩ := classOf_decodeToken w <;> rw [h] <;> split at hsigned <;>
    simp only [Option.some.injEq, reduceCtorEq, true_iff, false_iff] <;> omega

end Sys2Proof
end

section
/-! PROOFS. The frame of a step: what the pass of each command, the start of a command and a host move leave as they are;
and the obligations on parameters (R6), ownership (R24) and the host's turn (R8, R166). -/

namespace Sys2Proof.Machine

variable {s t : State} {c : Command}

/-! ### The frame of each pass -/

theorem encEmit_frame (inp : List Byte) (s : State) :
    encEmit inp s = { s with tbuf := (encEmit inp s).tbuf, enc := (encEmit inp s).enc } := by
  unfold encEmit
  split <;> rfl

theorem encPass_frame (h : encPass s = .next t) :
    t = { s with
      tbuf := t.tbuf, tbufTcnt := t.tbufTcnt, tbufOlen := t.tbufOlen, enc := t.enc,
      status := t.status, cause := t.cause, info := t.info } := by
  obtain ⟨-, -, rfl⟩ | ⟨-, -, inp, -, rfl⟩ | ⟨-, rfl⟩ := encPass_cases h
  · rfl
  · rw [encEmit_frame]
    rfl
  · rfl

/-- R96, R97: the trailing byte moves the cursor on by one or not at all. -/
theorem appendTrailing_frame (b : Byte) (s : State) :
    ∃ m x, appendTrailing b s = { s with obuf := m, dec := { s.dec with cur := s.dec.cur + x } } := by
  obtain ⟨-, h⟩ | ⟨-, h⟩ := appendTrailing_cases b s <;> rw [h]
  · exact ⟨_, 1, rfl⟩
  · exact ⟨_, 0, rfl⟩

/-- What a token of DECODE does: it raises the command's error at its index, having changed no more than latches, output
and cursor, or it leaves the command at the next token, the cursor no lower. -/
theorem tokWordRun_effect {w : TokWord} (h : tokWordRun w s = .next t) :
    (∃ e u, t = raise .decode e s.dec.ti u ∧ u = { s with obuf := u.obuf, dec := u.dec } ∧
      (e = .illegalToken ∨ e = .refBeforeStart ∨ e = .outputOverrun)) ∨
    (t = { s with obuf := t.obuf, dec := t.dec } ∧ t.dec.ti = s.dec.ti + 1 ∧ t.dec.tcnt = s.dec.tcnt ∧
      t.dec.olen = s.dec.olen ∧ s.dec.cur ≤ t.dec.cur) := by
  obtain ⟨-, hw⟩ | ⟨-, hw⟩ | ⟨-, -, hw⟩ := tokWordRun_cases w s <;> rw [hw] at h
  case inl =>
    cases h
    exact .inl ⟨_, _, rfl, rfl, .inl rfl⟩
  case inr.inl =>
    obtain ⟨-, hl⟩ | ⟨-, hl⟩ := tokLit_cases (lenField w) (byteField w) s <;> rw [hl] at h <;> cases h
    · exact .inl ⟨_, _, rfl, rfl, .inr (.inr rfl)⟩
    · exact .inr ⟨rfl, rfl, rfl, rfl, Nat.le_succ _⟩
  case inr.inr =>
    obtain ⟨-, rfl⟩ | ⟨-, m, cur, k, hcopy, rfl⟩ | ⟨-, m, cur, k, -, rfl⟩ := tokMatch_cases h
    · exact .inl ⟨_, _, rfl, rfl, .inr (.inl rfl)⟩
    · obtain ⟨hcur, -⟩ := copyBytes_moved hcopy
      obtain ⟨m', x, happ⟩ := appendTrailing_frame (byteField w)
        (afterCopy m cur k (setStart (s.dec.cur - (distField w).toNat) (latch (distField w) (lenField w) (byteField w) s)))
      rw [happ]
      refine .inr ⟨rfl, rfl, rfl, rfl, ?_⟩
      show s.dec.cur ≤ cur + x
      omega
    · exact .inl ⟨_, _, rfl, rfl, .inr (.inr rfl)⟩

theorem decPass_frame (h : decPass s = .next t) :
    t = { s with
      obuf := t.obuf, obufLen := t.obufLen, lenmis := t.lenmis, dec := t.dec,
      status := t.status, cause := t.cause, info := t.info } := by
  obtain ⟨-, w, -, hw⟩ | ⟨-, rfl⟩ := decPass_cases h
  · obtain ⟨e, u, rfl, hu, -⟩ | ⟨ht, -⟩ := tokWordRun_effect hw
    · rw [hu]
      rfl
    · rw [ht]
  · rfl

theorem serPass_frame (h : serPass s = .next t) :
    t = { s with
      pbuf := t.pbuf, pbufPlen := t.pbufPlen, ser := t.ser, phase := t.phase, status := t.status } := by
  obtain ⟨-, olen, -, rfl⟩ | ⟨-, -, w, -, rfl⟩ | ⟨-, -, rfl⟩ := serPass_cases h
  · rfl
  · rfl
  · rfl

theorem desPass_frame (h : desPass s = .next t) :
    t = { s with
      tbuf := t.tbuf, tbufTcnt := t.tbufTcnt, tbufOlen := t.tbufOlen, des := t.des, phase := t.phase,
      status := t.status, cause := t.cause, info := t.info } := by
  obtain ⟨-, plen, -, -, rfl⟩ | ⟨-, plen, b0, b1, b2, b3, b4, b5, b6, b7, -, -, -, rfl⟩ |
    ⟨-, -, b0, b1, b2, b3, -, rfl⟩ | ⟨-, -, rfl⟩ := desPass_cases h
  · rfl
  · obtain ⟨-, hd⟩ | ⟨-, -, hd⟩ | ⟨-, -, -, hd⟩ | ⟨-, -, -, hd⟩ :=
      desHeader_cases plen (be32 b0 b1 b2 b3) (be32 b4 b5 b6 b7) s <;> rw [hd] <;> rfl
  · rfl
  · rfl

/-! ### What every pass leaves -/

/-- What a pass of the command `c` leaves as it is: parameters, CMD, the host's fields, the units of the other commands,
and every buffer and length but its destination (R6, R8, R10, R24). -/
structure PassFrame (c : Command) (s t : State) : Prop where
  cfg : t.cfg = s.cfg
  cmd : t.cmd = s.cmd
  host : t.host = s.host
  hostIn : t.hostIn = s.hostIn
  enc : c ≠ .encode → t.enc = s.enc
  dec : c ≠ .decode → t.dec = s.dec
  ser : c ≠ .serialize → t.ser = s.ser
  des : c ≠ .deserialize → t.des = s.des
  destination : OnlyDestinationDiffers c s t

theorem passOf_frame (h : passOf c s = .next t) : PassFrame c s t := by
  cases c with
  | encode =>
    rw [encPass_frame h]
    exact ⟨rfl, rfl, rfl, rfl, fun hc => absurd rfl hc, fun _ => rfl, fun _ => rfl, fun _ => rfl,
      rfl, rfl, .inl (.inl rfl), .inr ⟨rfl, rfl⟩, .inr ⟨rfl, rfl⟩⟩
  | decode =>
    rw [decPass_frame h]
    exact ⟨rfl, rfl, rfl, rfl, fun _ => rfl, fun hc => absurd rfl hc, fun _ => rfl, fun _ => rfl,
      rfl, rfl, .inr ⟨rfl, rfl, rfl⟩, .inl rfl, .inr ⟨rfl, rfl⟩⟩
  | serialize =>
    rw [serPass_frame h]
    exact ⟨rfl, rfl, rfl, rfl, fun _ => rfl, fun _ => rfl, fun hc => absurd rfl hc, fun _ => rfl,
      rfl, rfl, .inr ⟨rfl, rfl, rfl⟩, .inr ⟨rfl, rfl⟩, .inl rfl⟩
  | deserialize =>
    rw [desPass_frame h]
    exact ⟨rfl, rfl, rfl, rfl, fun _ => rfl, fun _ => rfl, fun _ => rfl, fun hc => absurd rfl hc,
      rfl, rfl, .inl (.inr rfl), .inr ⟨rfl, rfl⟩, .inr ⟨rfl, rfl⟩⟩

/-- While a command runs, a step has the frame of that command's pass. -/
theorem step_frame_of_busy (hb : s.status = .busy) (h : step s = .next t) : PassFrame (commandOf s.cmd) s t :=
  passOf_frame (step_busy hb ▸ h)

/-! ### What a start and a host move leave -/

theorem startOf_frame (h : startOf c s = .next t) :
    t.cfg = s.cfg ∧ t.cmd = commandCode c ∧ t.status = .busy ∧ t.cause = .none ∧ t.info = 0 ∧ t.lenmis = false ∧
      t.phase = .header ∧ t.host = s.host ∧ t.hostIn = s.hostIn := by
  obtain ⟨rfl, n, -, -, rfl⟩ | ⟨rfl, olen, tcnt, -, -, rfl⟩ | ⟨rfl, olen, tcnt, -, -, rfl⟩ | ⟨rfl, plen, -, rfl⟩ :=
    startOf_cases h
  · exact ⟨rfl, rfl, rfl, rfl, rfl, rfl, rfl, rfl, rfl⟩
  · exact ⟨rfl, rfl, rfl, rfl, rfl, rfl, rfl, rfl, rfl⟩
  · exact ⟨rfl, rfl, rfl, rfl, rfl, rfl, rfl, rfl, rfl⟩
  · exact ⟨rfl, rfl, rfl, rfl, rfl, rfl, rfl, rfl, rfl⟩

theorem setBytes_frame (s : State) (sp : ByteSpace) (m : ByteMem) :
    s.setBytes sp m = { s with
      ibuf := (s.setBytes sp m).ibuf, obuf := (s.setBytes sp m).obuf, pbuf := (s.setBytes sp m).pbuf } := by
  cases sp <;> rfl

theorem setLen_frame (s : State) (r : LenReg) (n : Nat) :
    s.setLen r n = { s with
      ibufN := (s.setLen r n).ibufN, tbufTcnt := (s.setLen r n).tbufTcnt, tbufOlen := (s.setLen r n).tbufOlen,
      obufLen := (s.setLen r n).obufLen, pbufPlen := (s.setLen r n).pbufPlen } := by
  cases r <;> rfl

/-- R162: a host move changes buffers, length registers and what the host read, and nothing else. -/
theorem hostMove_frame {m : HostMove} (hm : ∀ c, m ≠ .writeCmd c) (h : hostMove m s = .next t) :
    t = { s with
      ibuf := t.ibuf, ibufN := t.ibufN, tbuf := t.tbuf, tbufTcnt := t.tbufTcnt, tbufOlen := t.tbufOlen,
      obuf := t.obuf, obufLen := t.obufLen, pbuf := t.pbuf, pbufPlen := t.pbufPlen, hostIn := t.hostIn } := by
  obtain ⟨sp, a, v, -, -, rfl⟩ | ⟨x, w, -, -, rfl⟩ | ⟨r, n, -, -, rfl⟩ | ⟨v, rfl⟩ := hostMove_cases hm h
  · rw [setBytes_frame]
  · rfl
  · rw [setLen_frame]
  · rfl

/-! ### The obligations -/

/-- Settles O42: no pass, start or host move changes a parameter. -/
theorem parametersNeverChange : Obligations.ParametersNeverChange := by
  intro s t h
  obtain ⟨-, hp⟩ | ⟨-, -, rfl⟩ | ⟨-, c, rest, -, hs⟩ | ⟨-, m, rest, -, hm, hs⟩ := step_cases h
  · exact (passOf_frame hp).cfg
  · rfl
  · exact (startOf_frame hs).1
  · exact (congrArg State.cfg (hostMove_frame hm hs) :)

/-- Settles O40: the step is a pass of the command, with the frame of passes. -/
theorem runningCommandsWriteOnlyTheirDestination : Obligations.RunningCommandsWriteOnlyTheirDestination :=
  fun _ _ hb h => (step_frame_of_busy hb h).destination

/-- Settles O43: a pass leaves the host's fields, and a host move that is no CMD write leaves the units. -/
theorem hostMovesOnlyWhileNoCommandRuns : Obligations.HostMovesOnlyWhileNoCommandRuns := by
  intro s t h
  obtain ⟨hb, hp⟩ | ⟨hb, hh, rfl⟩ | ⟨hb, c, rest, hh, hs⟩ | ⟨hb, m, rest, hh, hm, hs⟩ := step_cases h
  · have hf := passOf_frame hp
    exact ⟨fun _ => ⟨hf.host, hf.hostIn⟩, absurd hb, absurd hb⟩
  · exact ⟨fun hb' => absurd hb' hb, fun _ => hh ▸ rfl, fun _ _ => ⟨rfl, rfl, rfl, rfl, rfl⟩⟩
  · obtain ⟨-, -, -, -, -, -, -, hhost, -⟩ := startOf_frame hs
    exact ⟨fun hb' => absurd hb' hb, fun _ => hh ▸ hhost, fun _ hne => absurd hh (hne c rest)⟩
  · rw [hostMove_frame hm hs]
    exact ⟨fun hb' => absurd hb' hb, fun _ => hh ▸ rfl, fun _ _ => ⟨rfl, rfl, rfl, rfl, rfl⟩⟩

end Sys2Proof.Machine
end

section
/-! PROOFS. How a pass ends: it goes on, it completes its command, or it raises an error of its unit; and the obligations
on the causes (R130), the control registers (R19), the errors (R139) and the order of tokens (R92). -/

namespace Sys2Proof.Machine

variable {s t : State} {c : Command}

/-! ### The three ends of a pass -/

/-- R81, R98, R113, R124: the completion of the command `c`. -/
def finishOf : Command → State → State
  | .encode => encFinish
  | .decode => decFinish
  | .serialize => serFinish
  | .deserialize => desFinish

/-- The running command `c` has nothing left but its completion. -/
def AtEnd : Command → State → Prop
  | .encode, s => s.enc.n ≤ s.enc.p
  | .decode, s => s.dec.tcnt ≤ s.dec.ti
  | .serialize, s => s.phase = .body ∧ s.ser.tcnt ≤ s.ser.ti
  | .deserialize, s => s.phase = .body ∧ headerValue s.des.tcnt ≤ (s.des.ti : Int)

/-- R130: the causes and the INFO of the command `c`'s row. -/
def RaisedBy : Command → State → Cause → Nat → Prop
  | .encode, s, e, x => e = .incompressible ∧ x = s.enc.p
  | .decode, s, e, x => x = s.dec.ti ∧ (e = .illegalToken ∨ e = .refBeforeStart ∨ e = .outputOverrun)
  | .serialize, _, _, _ => False
  | .deserialize, _, e, x => e = .format ∧ 1 ≤ x ∧ x ≤ 4

/-- A pass that goes on leaves the control registers as they are. -/
structure GoesOn (s t : State) : Prop where
  status : t.status = s.status
  cause : t.cause = s.cause
  info : t.info = s.info
  lenmis : t.lenmis = s.lenmis

theorem RaisedBy.cause_ne {e : Cause} {x : Nat} (h : RaisedBy c s e x) : e ≠ .none := by
  cases c with
  | encode =>
    obtain ⟨rfl, -⟩ := h
    decide
  | decode => obtain ⟨-, rfl | rfl | rfl⟩ := h <;> decide
  | serialize => exact h.elim
  | deserialize =>
    obtain ⟨rfl, -⟩ := h
    decide

theorem passOf_outcome (h : passOf c s = .next t) :
    GoesOn s t ∨ (AtEnd c s ∧ t = finishOf c s) ∨
      ∃ e x u, t = raise c e x u ∧ RaisedBy c s e x ∧ u.lenmis = s.lenmis := by
  cases c with
  | encode =>
    obtain ⟨-, -, rfl⟩ | ⟨-, -, inp, -, rfl⟩ | ⟨hend, rfl⟩ := encPass_cases h
    · exact .inr (.inr ⟨_, _, s, rfl, ⟨rfl, rfl⟩, rfl⟩)
    · rw [encEmit_frame]
      exact .inl ⟨rfl, rfl, rfl, rfl⟩
    · exact .inr (.inl ⟨hend, rfl⟩)
  | decode =>
    obtain ⟨-, w, -, hw⟩ | ⟨hend, rfl⟩ := decPass_cases h
    · obtain ⟨e, u, rfl, hu, he⟩ | ⟨ht, -⟩ := tokWordRun_effect hw
      · exact .inr (.inr ⟨e, _, u, rfl, ⟨rfl, he⟩, (congrArg State.lenmis hu :)⟩)
      · rw [ht]
        exact .inl ⟨rfl, rfl, rfl, rfl⟩
    · exact .inr (.inl ⟨hend, rfl⟩)
  | serialize =>
    obtain ⟨-, olen, -, rfl⟩ | ⟨-, -, w, -, rfl⟩ | ⟨hph, hend, rfl⟩ := serPass_cases h
    · exact .inl ⟨rfl, rfl, rfl, rfl⟩
    · exact .inl ⟨rfl, rfl, rfl, rfl⟩
    · exact .inr (.inl ⟨⟨hph, hend⟩, rfl⟩)
  | deserialize =>
    obtain ⟨-, plen, -, -, rfl⟩ | ⟨-, plen, b0, b1, b2, b3, b4, b5, b6, b7, -, -, -, rfl⟩ |
      ⟨-, -, b0, b1, b2, b3, -, rfl⟩ | ⟨hph, hend, rfl⟩ := desPass_cases h
    · exact .inr (.inr ⟨_, _, s, rfl, ⟨rfl, by omega, by omega⟩, rfl⟩)
    · obtain ⟨-, hd⟩ | ⟨-, -, hd⟩ | ⟨-, -, -, hd⟩ | ⟨-, -, -, hd⟩ :=
        desHeader_cases plen (be32 b0 b1 b2 b3) (be32 b4 b5 b6 b7) s <;> rw [hd]
      · exact .inr (.inr ⟨_, _, _, rfl, ⟨rfl, by omega, by omega⟩, rfl⟩)
      · exact .inr (.inr ⟨_, _, _, rfl, ⟨rfl, by omega, by omega⟩, rfl⟩)
      · exact .inr (.inr ⟨_, _, _, rfl, ⟨rfl, by omega, by omega⟩, rfl⟩)
      · exact .inl ⟨rfl, rfl, rfl, rfl⟩
    · exact .inl ⟨rfl, rfl, rfl, rfl⟩
    · exact .inr (.inl ⟨⟨hph, hend⟩, rfl⟩)

theorem finishOf_status (c : Command) (s : State) : (finishOf c s).status = .done := by
  cases c <;> rfl

theorem finishOf_cause (c : Command) (s : State) : (finishOf c s).cause = s.cause := by
  cases c <;> rfl

theorem finishOf_info (c : Command) (s : State) : (finishOf c s).info = s.info := by
  cases c <;> rfl

/-- R98: no completion but DECODE's writes LENMIS. -/
theorem finishOf_lenmis (c : Command) (s : State) :
    (finishOf c s).lenmis = s.lenmis ∨ (c = .decode ∧ (finishOf c s).lenmis = lengthMismatch s.dec.cur s.dec.olen) := by
  cases c with
  | encode => exact .inl rfl
  | decode => exact .inr ⟨rfl, rfl⟩
  | serialize => exact .inl rfl
  | deserialize => exact .inl rfl

theorem raise_lenmis (c : Command) (e : Cause) (x : Nat) (u : State) :
    (raise c e x u).lenmis = true → u.lenmis = true := by
  cases c with
  | encode => exact id
  | decode => exact fun h => absurd h Bool.false_ne_true
  | serialize => exact id
  | deserialize => exact id

/-- A pass of a running command that ends in ERROR has raised an error of its row. -/
theorem passOf_error (hb : s.status = .busy) (h : passOf c s = .next t) (he : t.status = .error) :
    ∃ e x u, t = raise c e x u ∧ RaisedBy c s e x := by
  obtain ⟨hon, -⟩ | ⟨-, rfl⟩ | ⟨e, x, u, ht, hby, -⟩ := passOf_outcome h
  · rw [hon, hb] at he
    cases he
  · rw [finishOf_status] at he
    cases he
  · exact ⟨e, x, u, ht, hby⟩

/-- R139: what an error leaves of the destination. -/
theorem raise_destination (c : Command) (e : Cause) (x : Nat) (u : State) :
    DestinationWithoutValue c (raise c e x u) := by
  cases c with
  | encode => exact ⟨rfl, rfl, rfl⟩
  | decode => exact ⟨rfl, rfl, rfl⟩
  | serialize => exact ⟨rfl, rfl⟩
  | deserialize => exact ⟨rfl, rfl, rfl⟩

/-! ### The obligations -/

/-- Settles O39: a step that ends in ERROR is a raise, and its frame is that of the pass. -/
theorem errorsInvalidateOnlyTheDestination : Obligations.ErrorsInvalidateOnlyTheDestination := by
  intro s t hb h he
  obtain ⟨e, x, u, ht, -⟩ := passOf_error hb (step_busy hb ▸ h) he
  exact ⟨ht ▸ raise_destination _ e x u, (step_frame_of_busy hb h).destination⟩

/-- Settles O37: a step that ends in ERROR is a raise of the running command's row. -/
theorem causesComeFromTheirUnits : Obligations.CausesComeFromTheirUnits := by
  refine ⟨⟨rfl, rfl, rfl, rfl, rfl, rfl⟩, fun s t hb h he => ?_⟩
  obtain ⟨e, x, u, rfl, hby⟩ := passOf_error hb (step_busy hb ▸ h) he
  rw [raise_cause, raise_info]
  cases hc : commandOf s.cmd <;> rw [hc] at hby
  case encode => exact .inl ⟨rfl, hby⟩
  case decode => exact .inr (.inl ⟨rfl, hby⟩)
  case serialize => exact hby.elim
  case deserialize => exact .inr (.inr ⟨rfl, hby⟩)

/-- R98: LENMIS comes up in a pass only at the completion of a short DECODE. -/
theorem passOf_lenmis (h : passOf c s = .next t) (ht : t.lenmis = true) (hs : s.lenmis = false) :
    c = .decode ∧ s.dec.tcnt ≤ s.dec.ti ∧ s.dec.cur ≠ s.dec.olen ∧ t.status = .done := by
  obtain ⟨-, -, -, hon⟩ | ⟨hend, rfl⟩ | ⟨e, x, u, rfl, -, hu⟩ := passOf_outcome h
  · rw [hon, hs] at ht
    cases ht
  · obtain hkeep | ⟨rfl, hflag⟩ := finishOf_lenmis c s
    · rw [hkeep, hs] at ht
      cases ht
    · rw [hflag] at ht
      exact ⟨rfl, hend, of_decide_eq_true ht, rfl⟩
  · rw [← hu, raise_lenmis c e x u ht] at hs
    cases hs

/-- Settles O41: LENMIS comes up in a pass only, as said; a host move leaves the control registers, a start clears
them. -/
theorem controlRegistersKeepUntilTheNextCommand : Obligations.ControlRegistersKeepUntilTheNextCommand := by
  intro s t h
  obtain ⟨hb, hp⟩ | ⟨hb, hh, rfl⟩ | ⟨hb, c, rest, hh, hs⟩ | ⟨hb, m, rest, hh, hm, hs⟩ := step_cases h
  · refine ⟨fun ht hs => ?_, absurd hb, absurd hb⟩
    obtain ⟨hc, hend, hcur, -⟩ := passOf_lenmis hp ht hs
    exact ⟨(running_iff .decode s).mpr ⟨hb, hc⟩, hend, hcur⟩
  · refine ⟨fun ht hs => absurd (ht.symm.trans hs) (by decide), fun _ _ => ⟨rfl, rfl, rfl⟩, fun _ hw => ?_⟩
    obtain ⟨c, rest, hw⟩ := hw
    cases hh.symm.trans hw
  · obtain ⟨-, -, -, hcause, hinfo, hlen, -⟩ := startOf_frame hs
    exact ⟨fun ht _ => absurd (ht.symm.trans hlen) (by decide), fun _ hne => absurd hh (hne c rest),
      fun _ _ => ⟨hcause, hinfo, hlen⟩⟩
  · rw [hostMove_frame hm hs]
    refine ⟨fun ht hs => absurd (ht.symm.trans hs) (by decide), fun _ _ => ⟨rfl, rfl, rfl⟩, fun _ hw => ?_⟩
    obtain ⟨c, rest', hw⟩ := hw
    cases hh.symm.trans hw
    exact absurd rfl (hm c)

/-- Settles O50: CAUSE and INFO change with a raise, which sets STATUS to ERROR too, and with a start, which clears all
three; LENMIS comes up with the completion of DECODE. -/
theorem controlStaysConsistent : Obligations.ControlStaysConsistent := by
  intro s t hinv h
  obtain ⟨hb, hp⟩ | ⟨-, -, rfl⟩ | ⟨-, c, rest, -, hs⟩ | ⟨-, m, rest, -, hm, hs⟩ := step_cases h
  · have hnotErr : s.status ≠ .error := fun he => by cases hb.symm.trans he
    have hcause : s.cause = .none := Decidable.not_not.mp (mt hinv.cause.mp hnotErr)
    have hinfo : s.info = 0 := hinv.info hnotErr
    have hflag : s.lenmis = false := by
      rw [← Bool.not_eq_true]
      exact fun hl => by cases hb.symm.trans (hinv.lenmis hl).1
    have hlenmis : t.lenmis = true → t.status = .done ∧ commandOf t.cmd = .decode := fun ht => by
      obtain ⟨hc, -, -, hdone⟩ := passOf_lenmis hp ht hflag
      exact ⟨hdone, (passOf_frame hp).cmd ▸ hc⟩
    obtain ⟨hst, hca, hin, -⟩ | ⟨-, rfl⟩ | ⟨e, x, u, rfl, hby, -⟩ := passOf_outcome hp
    · rw [← hst] at hnotErr
      exact ⟨iff_of_false (fun hne => hne (hca.trans hcause)) hnotErr, fun _ => hin.trans hinfo, hlenmis⟩
    · refine ⟨iff_of_false (fun hne => hne ?_) ?_, fun _ => ?_, hlenmis⟩
      · rw [finishOf_cause, hcause]
      · rw [finishOf_status]
        decide
      · rw [finishOf_info, hinfo]
    · refine ⟨iff_of_true ?_ (raise_status ..), fun hne => absurd (raise_status ..) hne, hlenmis⟩
      rw [raise_cause]
      exact hby.cause_ne
  · exact hinv
  · obtain ⟨-, -, hst, hcause, hinfo, hlen, -⟩ := startOf_frame hs
    refine ⟨iff_of_false (fun hne => hne hcause) ?_, fun _ => hinfo, fun ht => absurd (ht.symm.trans hlen) (by decide)⟩
    rw [hst]
    decide
  · rw [hostMove_frame hm hs]
    exact ⟨hinv.cause, hinv.info, hinv.lenmis⟩

/-- Settles O31: the pass leaves CAUSE and INFO, and STATUS stays BUSY or goes to DONE. -/
theorem serializeNeverRaises : Obligations.SerializeNeverRaises := by
  intro s t hrun h
  rw [exec_serialize_running hrun] at h
  have hf := serPass_frame h
  refine ⟨fun he => ?_, (congrArg State.cause hf :), (congrArg State.info hf :)⟩
  obtain ⟨hb, -⟩ := (running_iff .serialize s).mp hrun
  obtain ⟨e, x, u, -, hby⟩ := passOf_error (c := .serialize) hb h he
  exact hby

/-- Settles O27: the step is a token's, which raises or goes on to the next token. -/
theorem tokensRunInOrder : Obligations.TokensRunInOrder := by
  intro s t hrun hti h
  rw [step_running hrun] at h
  obtain ⟨-, w, -, hw⟩ | ⟨hend, -⟩ := decPass_cases h
  · obtain ⟨e, u, rfl, -, -⟩ | ⟨ht, hnext, htcnt, holen, hcur⟩ := tokWordRun_effect hw
    · exact .inl (raise_status ..)
    · have hrun' : running .decode t = true := by
        rw [ht]
        exact hrun
      exact .inr ⟨hrun', hnext, htcnt, holen, (congrArg State.tbuf ht :), hcur⟩
  · exact absurd hti (Nat.not_lt.mpr hend)

end Sys2Proof.Machine
end

section
/-! PROOFS. Reset, the instruction a step runs (R172), starts and refusals (R17, R170), and the obligations on them. -/

namespace Sys2Proof.Machine

variable {s : State} {c : Command}

/-! ### Reset -/

/-- Settles O1: every field of the reset state is written out in its definition. -/
theorem resetLeavesIdleAndEmpty : Obligations.ResetLeavesIdleAndEmpty :=
  ⟨rfl, rfl, rfl, rfl, fun _ => ⟨rfl, rfl, rfl, rfl⟩, rfl, fun r => by cases r <;> rfl⟩

/-- An empty buffer holds no value anywhere. -/
theorem within_nil {α : Type} (n : Nat) : Within ([] : List (Nat × α)) n := fun _ h => absurd rfl h

/-- A length register that holds 0 is below every bound. -/
theorem le_of_some_zero {x : Option Nat} (hx : x = some 0) (k : Nat) : ∀ n, x = some n → n ≤ k := by
  rintro n rfl
  cases hx
  exact Nat.zero_le k

/-- Settles O46: the buffers are empty and every register is 0. -/
theorem invariantsHoldAtReset : Obligations.InvariantsHoldAtReset := by
  refine ⟨⟨rfl, rfl, rfl, rfl⟩, ⟨within_nil _, within_nil _, within_nil _, within_nil _⟩, ?range, ?control⟩
  case range =>
    exact
      { nMax := Nat.le_refl _
        enc := ⟨Nat.zero_le _, Nat.zero_le _, Nat.zero_le _, Nat.zero_le _, Nat.zero_le _, Nat.zero_le _,
          Nat.zero_le _, Nat.zero_le _, Nat.zero_le _, Nat.zero_le _⟩
        dec := ⟨Nat.zero_le _, Nat.zero_le _, Nat.zero_le _, Nat.zero_le _, Nat.zero_le _, Nat.zero_le _⟩
        serTi := Nat.zero_le _
        serTcnt := Nat.zero_le _
        desTi := Nat.zero_le _
        desBody := fun hrun => absurd hrun (by decide)
        ibufN := le_of_some_zero rfl _
        tbufTcnt := le_of_some_zero rfl _
        tbufOlen := le_of_some_zero rfl _
        obufLen := le_of_some_zero rfl _
        pbufPlen := le_of_some_zero rfl _
        info := by decide }
  case control => exact ⟨by decide, fun _ => rfl, fun h => absurd h (by decide)⟩

/-! ### The instruction a step runs -/

/-- With a running command whose own instruction the sequencer stands at, a step is that instruction's meaning. -/
theorem step_eq_exec (hrun : running c s = true) : step s = exec (instrOf c) s := by
  rw [step_running hrun, exec_running hrun]

/-- A fetched header is the eight bytes read from PBUF. -/
theorem step_header {plen : Nat} {b0 b1 b2 b3 b4 b5 b6 b7 : Byte} (hrun : running .deserialize s = true)
    (hph : s.phase = .header) (hplen : s.pbufPlen = some plen) (hlong : headerBytes ≤ plen)
    (hread : memRead s.pbuf 0 headerBytes = some [b0, b1, b2, b3, b4, b5, b6, b7]) :
    step s = exec (.stream (be32 b0 b1 b2 b3) (be32 b4 b5 b6 b7)) s := by
  rw [step_running hrun]
  simp only [passOf, desPass, hph, desValidate, hplen, if_neg (Nat.not_lt.mpr hlong), hread, exec, execStream]

/-- Settles O8: a step of a running command is its pass, which is what the command, the token or the header means. -/
theorem stepRunsTheInstructionItFinds : Obligations.StepRunsTheInstructionItFinds := by
  refine ⟨fun s c rest hb hh => ?cmd, fun s w hrun hti hw => ?token,
    fun s plen bs rest i hrun hph hplen hlong hread hdec => ?header,
    fun s hrun => step_eq_exec hrun, fun s hrun _ => step_eq_exec hrun, fun s hrun => step_eq_exec hrun,
    fun s hrun _ => step_eq_exec hrun, fun s _ hrun _ _ _ => step_eq_exec hrun⟩
  case cmd => exact step_host hb hh
  case token =>
    rw [step_running hrun, exec_decodeToken]
    simp only [passOf, decPass, if_pos hti, hw]
  case header =>
    have hlen := memRead_length hread
    match bs, hlen with
    | [b0, b1, b2, b3, b4, b5, b6, b7], _ =>
      cases hdec
      exact step_header hrun hph hplen hlong hread

/-- Settles O9: waiting is a step that answers the same state. -/
theorem idleBlockStaysAsItIs : Obligations.IdleBlockStaysAsItIs := fun _ hb hh => step_idle hb hh

/-! ### Starts and refusals -/

theorem serStart_next {olen tcnt : Nat} (ho : s.tbufOlen = some olen) (ht : s.tbufTcnt = some tcnt) :
    serStart s = .next { start .serialize s with ser := { ti := 0, tcnt := tcnt } } := by
  simp only [serStart, ho, ht]

theorem desStart_next {plen : Nat} (hp : s.pbufPlen = some plen) :
    desStart s = .next { start .deserialize s with des := { s.des with ti := 0 } } := by
  simp only [desStart, hp]

/-- Settles O10: with no command running each code's instruction is the start of its command. -/
theorem commandWriteStartsItsUnit : Obligations.CommandWriteStartsItsUnit := by
  refine ⟨fun s n hb hn hle => ?_, fun s olen tcnt hb ho ht => ?_, fun s olen tcnt hb ho ht => ?_,
    fun s plen hb hp => ?_⟩
  · exact (exec_free (c := .encode) hb).trans (encStart_next hn hle)
  · exact (exec_free (c := .decode) hb).trans (decStart_next ho ht)
  · exact (exec_free (c := .serialize) hb).trans (serStart_next ho ht)
  · exact (exec_free (c := .deserialize) hb).trans (desStart_next hp)

theorem commandOf_injective {c d : CmdCode} (h : commandOf c = commandOf d) : c = d := by
  rw [← commandCode_commandOf c, h, commandCode_commandOf]

/-- Settles O12: another command's instruction is refused while one runs, and ENCODE's start above N_MAX. -/
theorem movesTheHostDoesNotHaveAreRefused : Obligations.MovesTheHostDoesNotHaveAreRefused := by
  refine ⟨fun s c hb hne => ?_, fun s n hb hn hlt => ?_⟩
  · rw [exec_command, takeUp, if_pos hb, if_neg (fun h => hne (commandOf_injective h))]
  · have hstart : exec .encode s = encStart s := exec_free (c := .encode) hb
    rw [hstart]
    simp only [encStart, hn, if_neg (Nat.not_le.mpr hlt)]

end Sys2Proof.Machine
end

section
/-! PROOFS. The header of SERIALIZE (R111) and of DESERIALIZE (R121, R122), the completion of DESERIALIZE (R124), and the
obligations on them. -/

namespace Sys2Proof.Machine

variable {s : State}

/-! ### SERIALIZE's header -/

theorem serPass_header {olen : Nat} (hph : s.phase = .header) (ho : s.tbufOlen = some olen) :
    serPass s = .next { s with
      pbuf := memWrite s.pbuf 0 (bytes32 (BitVec.ofNat 32 olen) ++ bytes32 (BitVec.ofNat 32 s.ser.tcnt))
      phase := .body } := by
  simp only [serPass, hph, serHeader, ho]

/-- R111: a byte of `unsigned_32` of a value is that byte of the value. -/
theorem getElem?_bytes32_ofNat (v : Nat) {j : Nat} (hj : j < 4) :
    (bytes32 (BitVec.ofNat 32 v))[j]? = some (BitVec.ofNat 8 (v / 256 ^ (3 - j))) := by
  rw [getElem?_bytes32 _ hj]
  congr 1
  apply BitVec.eq_of_toNat_eq
  rw [BitVec.toNat_ofNat, BitVec.toNat_ofNat, BitVec.toNat_ofNat]
  interval_cases j <;> omega

/-- The eight bytes of a header, the first field's and then the second's. -/
theorem getElem?_header_low (v w : BitVec 32) {j : Nat} (hj : j < 4) :
    (bytes32 v ++ bytes32 w)[j]? = (bytes32 v)[j]? := List.getElem?_append_left hj

theorem getElem?_header_high (v w : BitVec 32) (j : Nat) :
    (bytes32 v ++ bytes32 w)[4 + j]? = (bytes32 w)[j]? := by
  rw [List.getElem?_append_right (Nat.le_add_right 4 j)]
  exact congrArg ((bytes32 w)[·]?) (Nat.add_sub_cancel_left 4 j)

/-- Settles O28: the pass writes the eight bytes of the header and nothing else of PBUF. -/
theorem serializeWritesTheHeader : Obligations.SerializeWritesTheHeader := by
  intro s olen hrun hph ho
  refine ⟨_, (exec_serialize_running hrun).trans (serPass_header hph ho), rfl, fun j hj => ?low, fun j hj => ?high,
    sameOutside_memWrite s.pbuf 0 _⟩
  case low =>
    have h := memGet_memWrite_add s.pbuf 0 (j := j)
      (vs := bytes32 (BitVec.ofNat 32 olen) ++ bytes32 (BitVec.ofNat 32 s.ser.tcnt)) (Nat.lt_add_right 4 hj)
    rw [Nat.zero_add, getElem?_header_low _ _ hj, getElem?_bytes32_ofNat olen hj] at h
    exact h
  case high =>
    have h := memGet_memWrite_add s.pbuf 0 (j := 4 + j)
      (vs := bytes32 (BitVec.ofNat 32 olen) ++ bytes32 (BitVec.ofNat 32 s.ser.tcnt)) (Nat.add_lt_add_left hj 4)
    rw [Nat.zero_add, getElem?_header_high, getElem?_bytes32_ofNat s.ser.tcnt hj] at h
    exact h

/-! ### DESERIALIZE's header -/

theorem execStream_short {plen : Nat} (olen tcnt : BitVec 32) (hp : s.pbufPlen = some plen) (hshort : plen < 8) :
    execStream olen tcnt s = .next (raise .deserialize .format 1 s) := by
  have hshort' : plen < headerBytes := hshort
  simp only [execStream, hp, if_pos hshort']

theorem execStream_long {plen : Nat} (olen tcnt : BitVec 32) (hp : s.pbufPlen = some plen) (hlong : 8 ≤ plen) :
    execStream olen tcnt s = .next (desHeader plen olen tcnt s) := by
  have hlong' : ¬ plen < headerBytes := Nat.not_lt.mpr hlong
  simp only [execStream, hp, if_neg hlong']

/-- R57: a header field outside its range is negative or above N_MAX. -/
theorem headerInRange_false_iff (c : Config) (v : BitVec 32) :
    headerInRange c v = false ↔ v.toInt < 0 ∨ (c.nMax : Int) < v.toInt := by
  rw [← Bool.not_eq_true, headerInRange_iff]
  omega

/-- R121, check 4: the size of the stream as a number, for a token count that is not negative. -/
theorem eq_persistedSize_iff {tcnt : BitVec 32} (h0 : 0 ≤ tcnt.toInt) (plen : Nat) :
    plen = persistedSize (headerValue tcnt).toNat ↔ (plen : Int) = 8 + 4 * tcnt.toInt := by
  rw [persistedSize_eq, headerValue]
  omega

theorem not_outside_of_headerInRange {c : Config} {v : BitVec 32} (h : headerInRange c v = true) :
    ¬ (v.toInt < 0 ∨ (c.nMax : Int) < v.toInt) := by
  rw [← headerInRange_false_iff, h]
  decide

/-- Settles O32: the checks of a header are made in order; the first is the length's. -/
theorem headerChecksInOrder : Obligations.HeaderChecksInOrder := by
  refine ⟨fun s olen tcnt plen hp => ?record, fun s plen hrun hph hp hshort => ?command⟩
  case record =>
    by_cases hshort : plen < 8
    · refine ⟨_, execStream_short olen tcnt hp hshort, ?_⟩
      rw [if_pos hshort]
      rfl
    refine ⟨_, execStream_long olen tcnt hp (Nat.not_lt.mp hshort), ?_⟩
    rw [if_neg hshort]
    obtain ⟨ho, hd⟩ | ⟨ho, ht, hd⟩ | ⟨ho, ht, hsize, hd⟩ | ⟨ho, ht, hsize, hd⟩ := desHeader_cases plen olen tcnt s <;>
      rw [hd]
    · rw [if_pos ((headerInRange_false_iff ..).mp ho)]
      rfl
    · rw [if_neg (not_outside_of_headerInRange ho), if_pos ((headerInRange_false_iff ..).mp ht)]
      rfl
    · obtain ⟨h0, -⟩ := (headerInRange_iff ..).mp ht
      rw [if_neg (not_outside_of_headerInRange ho), if_neg (not_outside_of_headerInRange ht),
        if_pos (mt (eq_persistedSize_iff h0 plen).mpr hsize)]
      rfl
    · obtain ⟨h0, -⟩ := (headerInRange_iff ..).mp ht
      rw [if_neg (not_outside_of_headerInRange ho), if_neg (not_outside_of_headerInRange ht),
        if_neg (not_not.mpr ((eq_persistedSize_iff h0 plen).mp hsize))]
      rfl
  case command =>
    have hexec : exec .deserialize s = desPass s := exec_running hrun
    have hshort' : plen < headerBytes := hshort
    refine ⟨raise .deserialize .format 1 s, ?_, rfl⟩
    rw [hexec]
    simp only [desPass, hph, desValidate, hp, if_pos hshort']

/-- R122: a header that passes the checks is latched. -/
theorem desHeader_valid {plen : Nat} {olen tcnt : BitVec 32} (ho : 0 ≤ olen.toInt) (ho' : olen.toInt ≤ s.cfg.nMax)
    (ht : 0 ≤ tcnt.toInt) (ht' : tcnt.toInt ≤ s.cfg.nMax) (hsize : (plen : Int) = 8 + 4 * tcnt.toInt) :
    desHeader plen olen tcnt s = { s with phase := .body, des := { ti := 0, olen := olen, tcnt := tcnt } } := by
  have hor : headerInRange s.cfg olen = true := (headerInRange_iff ..).mpr ⟨ho, ho'⟩
  have htr : headerInRange s.cfg tcnt = true := (headerInRange_iff ..).mpr ⟨ht, ht'⟩
  have hplen := (eq_persistedSize_iff ht plen).mpr hsize
  rw [desHeader, if_neg (by rw [hor]; decide), if_neg (by rw [htr]; decide), if_neg (not_not.mpr hplen)]
  rfl

/-- Settles O33: the step's header is the eight bytes read, and its checks pass. -/
theorem validHeadersAreLatched : Obligations.ValidHeadersAreLatched := by
  refine ⟨fun s b0 b1 b2 b3 b4 b5 b6 b7 plen hrun hph hp hlong hread => ?read,
    fun s olen tcnt plen hp ho ho' ht ht' hsize => ?latch⟩
  case read =>
    exact ⟨_, _, step_header hrun hph hp hlong hread, toNat_be32 b0 b1 b2 b3, toNat_be32 b4 b5 b6 b7⟩
  case latch =>
    have hexec : exec (.stream olen tcnt) s = .next (desHeader plen olen tcnt s) :=
      execStream_long olen tcnt hp (by omega)
    rw [hexec, desHeader_valid ho ho' ht ht' hsize]

/-! ### Completion -/

theorem desPass_finish (hph : s.phase = .body) (hend : headerValue s.des.tcnt ≤ (s.des.ti : Int)) :
    desPass s = .next (desFinish s) := by
  simp only [desPass, hph, if_neg (Int.not_lt.mpr hend)]

/-- Settles O35: with no token left the pass is the completion, and the header's values are not negative. -/
theorem deserializeCompletesWithTheHeader : Obligations.DeserializeCompletesWithTheHeader := by
  intro s olen tcnt hrun hph ho ht hend
  have hexec : exec .deserialize s = desPass s := exec_running hrun
  have hvalue : headerValue s.des.tcnt ≤ (s.des.ti : Int) := by
    rw [headerValue, ht]
    omega
  rw [hexec, desPass_finish hph hvalue, desFinish, headerValue, headerValue, ho, ht, Int.toNat_natCast,
    Int.toNat_natCast]

end Sys2Proof.Machine
end

section
/-! PROOFS. What a host write and a host read answer (R162, R28), and the obligations on them. -/

namespace Sys2Proof.Machine

variable {s : State} {rest : List HostMove}

/-! ### Lengths by name -/

theorem setLen_len_other (s : State) {r r' : LenReg} (n : Nat) (h : r' ≠ r) : (s.setLen r n).len r' = s.len r' := by
  cases r <;> cases r' <;> simp [State.setLen, State.len] at h ⊢

/-! ### What a read answers -/

section
variable {sp : ByteSpace} {a n : Nat} {v : Byte} {w : TokWord}

theorem step_readByte (hb : s.status ≠ .busy) (hh : s.host = .readByte sp a :: rest)
    (hlen : s.len (lengthOf sp) = some n) (ha : a < n) (hv : memGet (s.bytes sp) a = some v) :
    step s = .next { s with host := rest, hostIn := v.toNat } := by
  have hlen' : ({ s with host := rest } : State).len (lengthOf sp) = some n := by
    rw [← hlen]
    cases sp <;> rfl
  have hv' : memGet (({ s with host := rest } : State).bytes sp) a = some v := by
    rw [← hv]
    cases sp <;> rfl
  rw [step_host hb hh]
  simp only [hostMove, hostReadByte, hlen', if_pos ha, hv']

theorem step_readToken (hb : s.status ≠ .busy) (hh : s.host = .readToken a :: rest) (hlen : s.tbufTcnt = some n)
    (ha : a < n) (hw : memGet s.tbuf a = some w) :
    step s = .next { s with host := rest, hostIn := w.toNat } := by
  rw [step_host hb hh]
  simp only [hostMove, hostReadToken, hlen, if_pos ha, hw]

theorem step_readLen {r : LenReg} (hb : s.status ≠ .busy) (hh : s.host = .readLen r :: rest) (hlen : s.len r = some n) :
    step s = .next { s with host := rest, hostIn := n } := by
  have hlen' : ({ s with host := rest } : State).len r = some n := by
    rw [← hlen]
    cases r <;> rfl
  rw [step_host hb hh]
  simp only [hostMove, hostReadLen, hlen']

end

/-- Settles O59, read by read; a control register reads as its code. -/
theorem hostReadsGiveWhatIsThere : Obligations.HostReadsGiveWhatIsThere := by
  refine ⟨fun s sp a n v rest hb hh hlen ha hv => step_readByte hb hh hlen ha hv,
    fun s a n w rest hb hh hlen ha hw => step_readToken hb hh hlen ha hw,
    fun s r n rest hb hh hlen => step_readLen hb hh hlen, fun s r rest hb hh => ?csr⟩
  case csr =>
    refine ⟨csrValue s r, ?_, ?status, ?cause, ?info, ?flags⟩
    · rw [step_host hb hh]
      cases r <;> rfl
    case status =>
      rintro rfl
      exact ⟨fun h => congrArg statusCode h, fun h => congrArg statusCode h, fun h => congrArg statusCode h⟩
    case cause =>
      rintro rfl
      exact ⟨fun h => congrArg causeCode h, fun h => congrArg causeCode h, fun h => congrArg causeCode h,
        fun h => congrArg causeCode h, fun h => congrArg causeCode h, fun h => congrArg causeCode h⟩
    case info =>
      rintro rfl
      rfl
    case flags =>
      rintro rfl
      exact ⟨fun h => if_pos h, fun h => if_neg (by rw [h]; decide)⟩

/-- Settles O45: the read looks at the length and then at the cell, and faults where either holds no value. -/
theorem hostReadsOfNoValueFault : Obligations.HostReadsOfNoValueFault := by
  refine ⟨fun s sp a rest hb hh hnone => ?byte, fun s a rest hb hh hnone => ?token, fun s r rest hb hh hnone => ?length⟩
  case byte =>
    have hnone' : memGet (({ s with host := rest } : State).bytes sp) a = none := by
      rw [← hnone]
      cases sp <;> rfl
    rw [step_host hb hh]
    simp only [hostMove, hostReadByte, hnone']
    split
    · exact ⟨_, rfl⟩
    · split <;> exact ⟨_, rfl⟩
  case token =>
    rw [step_host hb hh]
    simp only [hostMove, hostReadToken, hnone]
    split
    · exact ⟨_, rfl⟩
    · split <;> exact ⟨_, rfl⟩
  case length =>
    have hnone' : ({ s with host := rest } : State).len r = none := by
      rw [← hnone]
      cases r <;> rfl
    rw [step_host hb hh]
    simp only [hostMove, hostReadLen, hnone']

/-! ### A write and the read after it -/

/-- Two steps, the first and the second as they answer. -/
theorem runs_two {t u : State} (h1 : step s = .next t) (h2 : step t = .next u) : runs 2 s = .next u :=
  (runs_next h1).trans (runs_next h2)

theorem step_writeByte {sp : ByteSpace} {a : Nat} {v : Byte} (hb : s.status ≠ .busy)
    (hh : s.host = .writeByte sp a v :: rest) (ha : a < byteCapacity s.cfg sp) :
    step s = .next { s.setBytes sp (memSet (s.bytes sp) a v) with host := rest } := by
  rw [step_host hb hh]
  simp only [hostMove, hostWriteByte, if_pos ha]
  cases sp <;> rfl

theorem step_writeToken {a : Nat} {w : TokWord} (hb : s.status ≠ .busy) (hh : s.host = .writeToken a w :: rest)
    (ha : a < s.cfg.nMax) : step s = .next { s with tbuf := memSet s.tbuf a w, host := rest } := by
  rw [step_host hb hh]
  simp only [hostMove, hostWriteToken, if_pos ha]

theorem step_writeLen {r : LenReg} {n : Nat} (hb : s.status ≠ .busy) (hh : s.host = .writeLen r n :: rest)
    (hn : n ≤ lenLimit s.cfg r) : step s = .next { s.setLen r n with host := rest } := by
  rw [step_host hb hh]
  simp only [hostMove, hostWriteLen, if_pos hn]
  cases r <;> rfl

/-- Settles O44: the write's step and the read's step, which finds what the write put there. -/
theorem hostReadsBackWhatItWrote : Obligations.HostReadsBackWhatItWrote := by
  refine ⟨fun s sp a n v rest hb hh hlen ha hcap => ?byte, fun s a n w rest hb hh hlen ha hcap => ?token,
    fun s r n rest hb hh hn => ?length⟩
  case byte =>
    have hread := step_readByte (s := { s.setBytes sp (memSet (s.bytes sp) a v) with host := .readByte sp a :: rest })
      (v := v) (by rw [setBytes_status]; exact hb) rfl (n := n) (by cases sp <;> exact hlen) ha
      (by cases sp <;> exact memGet_memSet_same ..)
    refine ⟨_, runs_two (step_writeByte hb hh hcap) hread, ?_, ?_, ?_⟩
    · cases sp <;> rfl
    · cases sp <;> exact memGet_memSet_same ..
    · cases sp <;> exact sameOutside_memSet _ _ _
  case token =>
    refine ⟨_, runs_two (step_writeToken hb hh hcap) (step_readToken hb rfl hlen ha (memGet_memSet_same ..)), rfl,
      memGet_memSet_same .., sameOutside_memSet _ _ _⟩
  case length =>
    have hread := step_readLen (s := { s.setLen r n with host := .readLen r :: rest }) (n := n)
      (by rw [setLen_status]; exact hb) rfl (by cases r <;> rfl)
    refine ⟨_, runs_two (step_writeLen hb hh hn) hread, rfl, ?_, fun r' hr' => ?_⟩
    · cases r <;> rfl
    · rw [← setLen_len_other s n hr']
      cases r' <;> rfl

end Sys2Proof.Machine
end

section
/-! PROOFS. The search finds the nearest of the longest matches (R77, R78), and a token emitted describes the input it
covers (R79, R80, R84, R86, R88), with the obligations on both. -/

namespace Sys2Proof.Machine

/-! ### The scan (R77) -/

theorem better_cases (inp : List Byte) (p maxlen i : Nat) (best : Best) :
    (best.blen ≤ candidateLength inp p maxlen i ∧
      (better inp p maxlen i best).blen = candidateLength inp p maxlen i ∧
      (better inp p maxlen i best).bdist = p - i) ∨
    (candidateLength inp p maxlen i < best.blen ∧ (better inp p maxlen i best).blen = best.blen ∧
      (better inp p maxlen i best).bdist = best.bdist) := by
  unfold better
  split
  · next h => exact .inl ⟨h, rfl, rfl⟩
  · next h => exact .inr ⟨Nat.not_le.mp h, rfl, rfl⟩

/-- R77: no scanned candidate, and not the result the scan began with, is longer than the scan's answer; and the answer
is what the scan began with, every scanned candidate being shorter, or the last of the candidates of its length. -/
theorem scan_spec (inp : List Byte) (p maxlen left i : Nat) (best : Best) :
    best.blen ≤ (scan inp p maxlen left i best).blen ∧
    (∀ j, i ≤ j → j < i + left → candidateLength inp p maxlen j ≤ (scan inp p maxlen left i best).blen) ∧
    (((scan inp p maxlen left i best).blen = best.blen ∧ (scan inp p maxlen left i best).bdist = best.bdist ∧
        ∀ j, i ≤ j → j < i + left → candidateLength inp p maxlen j < best.blen) ∨
      ∃ c, i ≤ c ∧ c < i + left ∧ (scan inp p maxlen left i best).blen = candidateLength inp p maxlen c ∧
        (scan inp p maxlen left i best).bdist = p - c ∧
        ∀ j, c < j → j < i + left → candidateLength inp p maxlen j < (scan inp p maxlen left i best).blen) := by
  induction left generalizing i best with
  | zero =>
    rw [scan]
    exact ⟨Nat.le_refl _, fun j _ _ => by omega, .inl ⟨rfl, rfl, fun j _ _ => by omega⟩⟩
  | succ left ih =>
    rw [scan]
    obtain ⟨hbest, hall, hend⟩ := ih (i + 1) (better inp p maxlen i best)
    have hrest : ∀ {P : Nat → Prop}, P i → (∀ j, i + 1 ≤ j → j < i + 1 + left → P j) →
        ∀ j, i ≤ j → j < i + (left + 1) → P j := fun hi hlater j hij hj => by
      obtain rfl | hlt := Nat.eq_or_lt_of_le hij
      · exact hi
      · exact hlater j hlt (by omega)
    obtain ⟨htake, hlen, hdist⟩ | ⟨hkeep, hlen, hdist⟩ := better_cases inp p maxlen i best <;> rw [hlen] at hbest hend
    case inl =>
      refine ⟨htake.trans hbest, hrest hbest hall, .inr ?_⟩
      obtain ⟨hr, hd, hless⟩ | ⟨c, hlo, hhi, hr, hd, hless⟩ := hend
      · exact ⟨i, Nat.le_refl i, by omega, hr, hd.trans hdist, fun j hj hj' => hr ▸ hless j hj (by omega)⟩
      · exact ⟨c, by omega, by omega, hr, hd, fun j hj hj' => hless j hj (by omega)⟩
    case inr =>
      refine ⟨hbest, hrest (hkeep.le.trans hbest) hall, ?_⟩
      obtain ⟨hr, hd, hless⟩ | ⟨c, hlo, hhi, hr, hd, hless⟩ := hend
      · exact .inl ⟨hr, hd.trans hdist, hrest hkeep hless⟩
      · exact .inr ⟨c, by omega, by omega, hr, hd, fun j hj hj' => hless j hj (by omega)⟩

/-- Settles O14: with a candidate in the window the scan, begun with length 0, answers a candidate. -/
theorem searchFindsTheNearestLongestMatch : Obligations.SearchFindsTheNearestLongestMatch := by
  intro inp n p i k
  refine ⟨?empty, fun hp => ?window⟩
  case empty =>
    rintro rfl
    exact ⟨rfl, rfl⟩
  case window =>
    obtain ⟨-, hall, hend⟩ := scan_spec inp p (maxLength n p) (p - windowLo p) (windowLo p)
      { blen := 0, bdist := 0, i := i, k := k }
    rw [windowLo_eq] at hall hend
    have hend' : p - 8192 + (p - (p - 8192)) = p := by omega
    rw [hend'] at hall hend
    obtain ⟨-, -, hless⟩ | ⟨best, hlo, hhi, hlen, hdist, hless⟩ := hend
    · exact absurd (hless (p - 1) (by omega) (by omega)) (Nat.not_lt_zero _)
    · refine ⟨best, hlo, hhi, ?_, ?_, ?_, ?_⟩ <;> rw [search, windowLo_eq]
      · exact hdist
      · exact hlen
      · exact hall
      · exact hless

/-! ### What a token says of the input (R79, R80) -/

/-- R80: the literal `w` is the byte at `p`. -/
structure LiteralAt (m : ByteMem) (p : Nat) (w : TokWord) : Prop where
  dist : distField w = 0
  len : lenField w = 0
  byte : memGet m p = some (byteField w)

/-- R79, R84, R86: the match `w` names bytes of the input of length `n` before `p`, no further than they reach, that
are those at `p`; its byte is the one after them, or 0 at the end of the input. -/
structure MatchAt (m : ByteMem) (n p : Nat) (w : TokWord) : Prop where
  least : 3 ≤ (lenField w).toNat
  apart : (lenField w).toNat ≤ (distField w).toNat
  window : (distField w).toNat ≤ 8192
  inside : (distField w).toNat ≤ p
  fits : p + (lenField w).toNat ≤ n
  agree : ∀ j, j < (lenField w).toNat → memGet m (p - (distField w).toNat + j) = memGet m (p + j)
  byte : p + (lenField w).toNat < n → memGet m (p + (lenField w).toNat) = some (byteField w)
  byteAtEnd : n ≤ p + (lenField w).toNat → byteField w = 0

/-- What a pass of ENCODE that emits does (R79, R80, R88). -/
structure Emits (s t : State) (w : TokWord) : Prop where
  frame : t = { s with tbuf := t.tbuf, enc := t.enc }
  n : t.enc.n = s.enc.n
  cnt : t.enc.cnt = s.enc.cnt + 1
  p : t.enc.p = s.enc.p + (lenField w).toNat + 1
  cell : memGet t.tbuf s.enc.cnt = some w
  others : SameOutside s.tbuf t.tbuf s.enc.cnt (s.enc.cnt + 1)
  describes : LiteralAt s.ibuf s.enc.p w ∨ MatchAt s.ibuf s.enc.n s.enc.p w

/-- A distance that reads signed as a number up to 8192 is that number. -/
theorem toNat_dist_of_toInt {d : Dist} {k : Nat} (h : d.toInt = k) : d.toNat = k := by
  rw [toInt_dist] at h
  have := d.isLt
  split at h <;> omega

/-- R76, R84: a match longer than 0 that the search finds lies inside the window and equals the bytes at the position. -/
theorem search_match {inp : List Byte} {n p i k : Nat} (h : 0 < (search inp n p i k).blen) :
    (search inp n p i k).blen ≤ (search inp n p i k).bdist ∧ (search inp n p i k).bdist ≤ p ∧
      p + (search inp n p i k).blen ≤ n ∧
      ∀ j, j < (search inp n p i k).blen → inp[p - (search inp n p i k).bdist + j]? = inp[p + j]? := by
  obtain ⟨hlen, -⟩ | ⟨c, -, hcp, hlen, hdist⟩ := search_result inp n p i k
  · omega
  have hcap := candidateLength_le_maxlen inp p (maxLength n p) c
  have hend := add_candidateLength_le inp p (maxLength n p) c hcp.le
  have hc : p - (p - c) = c := by omega
  rw [maxLength_eq, ← maxLength_eq n p, ← hlen, maxLength_eq] at hcap
  rw [← hlen] at hend
  rw [hdist, hc]
  refine ⟨by omega, by omega, by omega, fun j hj => ?_⟩
  exact (candidateLength_agree inp p (maxLength n p) c (hlen ▸ hj)).2

/-- R79, R80, R88: a pass with input left and the guard not firing emits a token that describes the input. -/
theorem encode_emits {s : State} {inp : List Byte} (hrun : running .encode s = true) (hp : s.enc.p < s.enc.n)
    (hguard : (s.enc.cnt + s.cfg.guardBias.val) * 4 < s.enc.n) (hi : memRead s.ibuf 0 s.enc.n = some inp) :
    ∃ t w, exec .encode s = .next t ∧ Emits s t w := by
  have hcell : ∀ j, j < s.enc.n → memGet s.ibuf j = inp[j]? := fun j hj => by
    have h := ((memRead_eq_some _ _ _ _).mp hi).2 j hj
    rwa [Nat.zero_add] at h
  by_cases hlen : (search inp s.enc.n s.enc.p s.enc.i s.enc.k).blen ≤ 2
  · obtain ⟨t, b, hexec, hb, ht, hw, hother⟩ := encodeEmitsALiteralOtherwise s inp hrun hp hguard hi hlen
    have hlit : LiteralAt s.ibuf s.enc.p (tokWord 0 0 b) :=
      ⟨distField_tokWord .., lenField_tokWord .., by rw [hcell _ hp, hb, byteField_tokWord]⟩
    refine ⟨t, tokWord 0 0 b, hexec, ?_⟩
    rw [ht] at hw hother ⊢
    exact ⟨rfl, rfl, rfl, by rw [hlit.len]; rfl, hw, hother, .inl hlit⟩
  · have hlen' : 2 < (search inp s.enc.n s.enc.p s.enc.i s.enc.k).blen := Nat.not_le.mp hlen
    obtain ⟨t, w, hexec, ht, hw, hother, hdist, hlenw, hbyte⟩ := encodeEmitsTheMatchItFinds s inp hrun hp hguard hi hlen'
    have hd := toNat_dist_of_toInt hdist
    obtain ⟨hapart, hinside, hfits, hagree⟩ := search_match (Nat.lt_of_le_of_lt (Nat.zero_le 2) hlen')
    have hwindow := search_bdist_le inp s.enc.n s.enc.p s.enc.i s.enc.k
    rw [← hd] at hapart hinside hagree hwindow
    rw [← hlenw] at hapart hfits hagree hbyte hlen' ht
    refine ⟨t, w, hexec, ?_⟩
    rw [ht] at hw hother ⊢
    refine ⟨rfl, rfl, rfl, rfl, hw, hother, .inr ⟨hlen', hapart, hwindow, hinside, hfits, fun j hj => ?_, fun hin => ?_,
      fun hout => ?_⟩⟩
    · rw [hcell _ (by omega), hcell _ (by omega), hagree j hj]
    · rw [if_pos hin] at hbyte
      rw [hcell _ hin, hbyte]
    · rw [if_neg (Nat.not_lt.mpr hout)] at hbyte
      exact Option.some.inj hbyte

/-- Settles O19: a pass that leaves ENCODE running has emitted a token. -/
theorem emittedTokensDescribeTheInput : Obligations.EmittedTokensDescribeTheInput := by
  intro s t hrun h hbusy
  have hpass := exec_encode_running hrun ▸ h
  obtain ⟨-, -, rfl⟩ | ⟨hp, hg, inp, hi, -⟩ | ⟨-, rfl⟩ := encPass_cases hpass
  · cases hbusy
  · obtain ⟨t', w, hexec, he⟩ := encode_emits hrun hp ((guardFires_false_iff ..).mp hg) hi
    cases h.symm.trans hexec
    obtain ⟨hd, hl, hb⟩ | hm := he.describes
    · refine ⟨w, he.cell, he.cnt, .inl ⟨hd, hl, hb, ?_⟩⟩
      rw [he.p, hl]
      rfl
    · exact ⟨w, he.cell, he.cnt, .inr ⟨hm.least, hm.apart, hm.window, hm.inside, hm.fits, hm.agree, he.p⟩⟩
  · cases hbusy

end Sys2Proof.Machine
end

section
/-! PROOFS. A copy as a periodic repetition (R101), and which fault of a token DECODE reports (R138), with the
obligations on both. -/

namespace Sys2Proof.Machine

variable {d : Dist} {l b : Byte} {s t : State}

/-! ### The copied bytes (R101) -/

/-- The distance of a MATCH whose source is there is a number from 1 up to the cursor. -/
theorem MatchSourceReady.dist_pos (h : MatchSourceReady d s) : 0 < d.toNat ∧ d.toNat ≤ s.dec.cur := by
  obtain ⟨hleast, hmost, hwithin, -⟩ := h
  have hsigned := toInt_dist d
  split at hsigned <;> omega

/-- R101: by the recurrence of the copy a byte is the one a whole period before it, down to the bytes below the
cursor. -/
theorem MatchEffect.periodic (h : MatchEffect d l b s t) (hsrc : MatchSourceReady d s) (k : Nat) (hk : k < l.toNat) :
    memGet t.obuf (s.dec.cur + k) = memGet s.obuf (s.dec.cur - d.toNat + k % d.toNat) := by
  obtain ⟨hpos, hle⟩ := hsrc.dist_pos
  obtain ⟨-, hcopy, -, -, hframe⟩ := h
  induction k using Nat.strong_induction_on with
  | _ k ih =>
    obtain ⟨-, hrec⟩ := hcopy k hk
    rw [hrec]
    obtain hfirst | hlater := Nat.lt_or_ge k d.toNat
    · rw [Nat.mod_eq_of_lt hfirst]
      exact hframe _ (.inl (by omega))
    · rw [Nat.mod_eq_sub_mod hlater, ← ih (k - d.toNat) (by omega) (by omega)]
      congr 1
      omega

/-- Settles O22: a MATCH that fits answers its effect, whose copied bytes are periodic. -/
theorem overlappingCopiesRepeatPeriodically : Obligations.OverlappingCopiesRepeatPeriodically := by
  intro d l b s t hsrc hfit h k hk
  obtain ⟨t', hnext, heffect⟩ := tokMatch_fits b hsrc hfit
  cases (show tokMatch d l b s = .next t from h).symm.trans hnext
  exact heffect.periodic hsrc k hk

/-! ### The first fault (R138) -/

/-- A running DECODE at a token runs the token. -/
theorem step_token {w : TokWord} (hrun : running .decode s = true) (hti : s.dec.ti < s.dec.tcnt)
    (hw : memGet s.tbuf s.dec.ti = some w) : step s = tokWordRun w s := by
  rw [step_running hrun]
  simp only [passOf, decPass, if_pos hti, hw]

theorem tokWordRun_illegal {w : TokWord} (h : (distField w).toInt < 0 ∨ 8192 < (distField w).toInt) :
    tokWordRun w s = .next (raise .decode .illegalToken s.dec.ti
      (latch (distField w) (lenField w) (byteField w) s)) := by
  rw [tokWordRun, if_pos ((illegalDistance_iff _).mpr h)]
  rfl

theorem tokWordRun_literal {w : TokWord} (h : distField w = 0) :
    tokWordRun w s = tokLit (lenField w) (byteField w) s := by
  rw [tokWordRun, h, if_neg (by decide), if_pos rfl]

theorem tokWordRun_match {w : TokWord} (h : ¬ ((distField w).toInt < 0 ∨ 8192 < (distField w).toInt))
    (h0 : distField w ≠ 0) : tokWordRun w s = tokMatch (distField w) (lenField w) (byteField w) s := by
  rw [tokWordRun, if_neg (mt (illegalDistance_iff _).mp h), if_neg h0]

/-- A running DECODE has written every cell below its cursor, so that a MATCH within the output finds its source. -/
theorem matchSourceReady (hwritten : ∀ a, a < s.dec.cur → memGet s.obuf a ≠ none)
    (hlegal : ¬ (d.toInt < 0 ∨ 8192 < d.toInt)) (h0 : d ≠ 0) (hwithin : d.toInt ≤ (s.dec.cur : Int)) :
    MatchSourceReady d s := by
  have hne : d.toInt ≠ 0 := mt (toInt_dist_eq_zero_iff d).mp h0
  exact ⟨by omega, by omega, hwithin, fun a _ ha => hwritten a ha⟩

theorem DecodeRaised.status_cause {c : Cause} (h : DecodeRaised c s t) : t.status = .error ∧ t.cause = c := by
  obtain ⟨heq, -⟩ := h
  rw [heq]
  exact ⟨rfl, rfl⟩

theorem destinationWritten_decode (hrun : running .decode s = true) (h : DestinationWritten s) :
    HoldsExactly s.obuf s.dec.cur := by
  obtain ⟨-, hc⟩ := (running_iff .decode s).mp hrun
  rw [DestinationWritten, hc] at h
  exact h.1

/-- Settles O38: the checks are made in order, and a copy finds its source and ends for want of room only. -/
theorem decoderReportsTheFirstFault : Obligations.DecoderReportsTheFirstFault := by
  intro s w hrun hdest hcur hti hw
  obtain ⟨hbusy, -⟩ := (running_iff .decode s).mp hrun
  have hwritten := destinationWritten_decode hrun hdest
  rw [step_token hrun hti hw]
  by_cases hillegal : (distField w).toInt < 0 ∨ 8192 < (distField w).toInt
  · refine ⟨_, tokWordRun_illegal hillegal, ?_⟩
    rw [if_pos hillegal]
    exact ⟨rfl, rfl⟩
  simp only [if_neg hillegal]
  by_cases h0 : distField w = 0
  · have hzero : (distField w).toInt = 0 := (toInt_dist_eq_zero_iff _).mpr h0
    simp only [if_neg (show ¬ (s.dec.cur : Int) < (distField w).toInt by omega), if_pos h0, tokWordRun_literal h0]
    by_cases hfull : s.dec.olen < s.dec.cur + 1
    · obtain ⟨t, hnext, hraised⟩ := tokLit_overruns (lenField w) (byteField w) (Nat.le_of_lt_succ hfull)
      refine ⟨t, hnext, ?_⟩
      rw [if_pos hfull]
      exact hraised.status_cause
    · obtain ⟨t, hnext, heq, -⟩ := tokLit_appends (lenField w) (byteField w) (Nat.not_le.mp (mt Nat.lt_succ_of_le hfull))
      refine ⟨t, hnext, ?_⟩
      rw [if_neg hfull, heq]
      exact hbusy
  · simp only [if_neg h0, tokWordRun_match hillegal h0]
    by_cases hbefore : (s.dec.cur : Int) < (distField w).toInt
    · refine ⟨_, tokMatch_beforeStart (byteField w) hbefore, ?_⟩
      rw [if_pos hbefore]
      exact ⟨rfl, rfl⟩
    have hsrc := matchSourceReady hwritten.below hillegal h0 (Int.not_lt.mp hbefore)
    by_cases hfull : s.dec.olen < s.dec.cur + (lenField w).toNat
    · have hl : lenField w ≠ 0 := fun h => by
        rw [h] at hfull
        exact absurd hcur (Nat.not_le.mpr hfull)
      obtain ⟨t, hnext, hraised⟩ := tokMatch_overruns (byteField w) hsrc hl hfull
      refine ⟨t, hnext, ?_⟩
      rw [if_neg hbefore, if_pos hfull]
      exact hraised.status_cause
    · obtain ⟨t, hnext, heffect⟩ := tokMatch_fits (byteField w) hsrc (Nat.not_lt.mp hfull)
      refine ⟨t, hnext, ?_⟩
      rw [if_neg hbefore, if_neg hfull, heffect.status_eq]
      exact hbusy

end Sys2Proof.Machine
end

section
/-! PROOFS. Every step keeps the registers in the ranges of their tables (R12 to R14, R16, R19 to R23), and the obligation
on it. -/

namespace Sys2Proof.Machine

variable {s t : State}

/-! ### The encoder's registers (R12) -/

/-- R77: the loop variables are as they were, or the last candidate scanned and a match length. -/
theorem scan_loopVars (inp : List Byte) (p maxlen left i : Nat) (best : Best) :
    ((scan inp p maxlen left i best).i = best.i ∨ (scan inp p maxlen left i best).i < i + left) ∧
    ((scan inp p maxlen left i best).k = best.k ∨ (scan inp p maxlen left i best).k ≤ maxlen) := by
  induction left generalizing i best with
  | zero => exact ⟨.inl rfl, .inl rfl⟩
  | succ left ih =>
    rw [scan]
    have hi : (better inp p maxlen i best).i = i := by
      unfold better
      split <;> rfl
    have hk : (better inp p maxlen i best).k = candidateLength inp p maxlen i := by
      unfold better
      split <;> rfl
    obtain ⟨hvar, hlen⟩ := ih (i + 1) (better inp p maxlen i best)
    rw [hi] at hvar
    rw [hk] at hlen
    have hcap := candidateLength_le_maxlen inp p maxlen i
    omega

theorem search_loopVars (inp : List Byte) (n p i k : Nat) :
    ((search inp n p i k).i = i ∨ (search inp n p i k).i < p) ∧
    ((search inp n p i k).k = k ∨ (search inp n p i k).k ≤ 255) := by
  have h : ((search inp n p i k).i = i ∨ (search inp n p i k).i < windowLo p + (p - windowLo p)) ∧
      ((search inp n p i k).k = k ∨ (search inp n p i k).k ≤ maxLength n p) := scan_loopVars ..
  rw [windowLo_eq, maxLength_eq] at h
  omega

/-- R74 to R77: the registers after the search. -/
theorem encSearch_range {inp : List Byte} (h : EncInRange s.cfg s.enc) (hp : s.enc.p < s.enc.n) :
    EncInRange s.cfg (encSearch inp s).enc := by
  obtain ⟨hvar, hlen⟩ := search_loopVars inp s.enc.n s.enc.p s.enc.i s.enc.k
  have hlo := windowLo_eq s.enc.p
  have hmax := maxLength_eq s.enc.n s.enc.p
  have hn := h.n
  have hi := h.i
  have hk := h.k
  exact
    { n := h.n, p := h.p, cnt_p := h.cnt_p, cnt_n := h.cnt_n
      lo := show windowLo s.enc.p ≤ s.cfg.nMax by omega
      maxlen := show maxLength s.enc.n s.enc.p ≤ 255 by omega
      i := show (search inp s.enc.n s.enc.p s.enc.i s.enc.k).i ≤ s.cfg.nMax by omega
      k := show (search inp s.enc.n s.enc.p s.enc.i s.enc.k).k ≤ 255 by omega
      blen := search_blen_le ..
      bdist := search_bdist_le .. }

/-- R79, R80, R87: an emission moves the position at most one past the end, and the count no further than it. -/
theorem encEmit_range {inp : List Byte} (h : EncInRange s.cfg s.enc) (hp : s.enc.p < s.enc.n)
    (hfits : 2 < s.enc.blen → s.enc.p + s.enc.blen ≤ s.enc.n) : EncInRange s.cfg (encEmit inp s).enc := by
  have hcnt := h.cnt_p
  obtain hshort | hlong := Nat.lt_or_ge 2 s.enc.blen
  · have hfit := hfits hshort
    rw [encEmit_match inp hshort, encMatch_enc]
    exact { h with
      p := show s.enc.p + s.enc.blen + 1 ≤ s.enc.n + 1 by omega
      cnt_p := show s.enc.cnt + 1 ≤ s.enc.p + s.enc.blen + 1 by omega
      cnt_n := show s.enc.cnt + 1 ≤ s.enc.n by omega }
  · rw [encEmit_literal inp hlong, encLiteral_enc]
    exact { h with
      p := show s.enc.p + 1 ≤ s.enc.n + 1 by omega
      cnt_p := show s.enc.cnt + 1 ≤ s.enc.p + 1 by omega
      cnt_n := show s.enc.cnt + 1 ≤ s.enc.n by omega }

theorem encSearch_fits {inp : List Byte} (h : 2 < (encSearch inp s).enc.blen) :
    (encSearch inp s).enc.p + (encSearch inp s).enc.blen ≤ (encSearch inp s).enc.n := by
  have hlen : 0 < (search inp s.enc.n s.enc.p s.enc.i s.enc.k).blen := Nat.lt_of_le_of_lt (Nat.zero_le 2) h
  obtain ⟨-, -, hfits, -⟩ := search_match hlen
  exact hfits

/-- A state in which DESERIALIZE does not run has no header to vouch for. -/
theorem desBody_of_other {P : Prop} (hc : commandOf s.cmd ≠ .deserialize) : running .deserialize s = true → P :=
  fun hrun => absurd ((running_iff .deserialize s).mp hrun).2 hc

theorem le_of_none {k : Nat} : ∀ n, (none : Option Nat) = some n → n ≤ k := fun _ h => by cases h

theorem le_of_some {x k : Nat} (hx : x ≤ k) : ∀ n, some x = some n → n ≤ k := fun _ h => Option.some.inj h ▸ hx

theorem encPass_range (hc : commandOf s.cmd = .encode) (hr : RegistersInRange s) (h : encPass s = .next t) :
    RegistersInRange t := by
  have hother : commandOf s.cmd ≠ .deserialize := by
    rw [hc]
    decide
  have hn := hr.enc.n
  have hcnt := hr.enc.cnt_n
  have hmax := hr.nMax
  obtain ⟨hp, -, rfl⟩ | ⟨hp, -, inp, -, rfl⟩ | ⟨-, rfl⟩ := encPass_cases h
  · exact { hr with
      desBody := desBody_of_other hother
      tbufTcnt := le_of_none
      tbufOlen := le_of_none
      info := show s.enc.p < 4294967296 by omega }
  · have henc : EncInRange s.cfg (encEmit inp (encSearch inp s)).enc :=
      encEmit_range (s := encSearch inp s) (encSearch_range hr.enc hp) hp encSearch_fits
    rw [encEmit_frame]
    exact { hr with enc := henc, desBody := desBody_of_other hother }
  · exact { hr with
      desBody := desBody_of_other hother
      tbufTcnt := le_of_some (hcnt.trans hn)
      tbufOlen := le_of_some hn }

/-! ### The decoder's registers (R13) -/

theorem tokLit_range {l b : Byte} (hr : DecInRange s.cfg s.dec) (hti : s.dec.ti < s.dec.tcnt)
    (h : tokLit l b s = .next t) : DecInRange s.cfg t.dec := by
  obtain ⟨-, hl⟩ | ⟨hroom, hl⟩ := tokLit_cases l b s <;> rw [hl] at h <;> cases h
  · exact { hr with }
  · exact { hr with ti := hti, cur := hroom }

theorem tokMatch_range {d : Dist} {l b : Byte} (hr : DecInRange s.cfg s.dec) (hti : s.dec.ti < s.dec.tcnt)
    (h : tokMatch d l b s = .next t) : DecInRange s.cfg t.dec := by
  have hcur := hr.cur
  have holen := hr.olen
  have hk := hr.k
  have hl := l.isLt
  have hstart : s.dec.cur - d.toNat ≤ s.cfg.nMax := by omega
  obtain ⟨-, rfl⟩ | ⟨-, m, cur, k, hcopy, rfl⟩ | ⟨-, m, cur, k, hcopy, rfl⟩ := tokMatch_cases h
  · exact { hr with }
  · obtain ⟨hcur', hroom, hk', -⟩ := copyBytes_moved hcopy
    have hkle : k ≤ 255 := by
      rw [hk']
      split <;> omega
    obtain ⟨hpresent, happ⟩ | ⟨-, happ⟩ := appendTrailing_cases b (copied d l b m cur k s)
    · have hlt : cur < s.dec.olen := by
        obtain ⟨-, -, hlt⟩ | ⟨-, hlt⟩ := hpresent <;> exact hlt
      show DecInRange s.cfg (nextToken (appendTrailing b (copied d l b m cur k s))).dec
      rw [happ]
      exact { hr with ti := hti, cur := hlt, start := hstart, k := hkle }
    · show DecInRange s.cfg (nextToken (appendTrailing b (copied d l b m cur k s))).dec
      rw [happ]
      exact { hr with ti := hti, cur := show cur ≤ s.dec.olen by omega, start := hstart, k := hkle }
  · obtain ⟨-, -, hlt, hk', hroom⟩ := copyBytes_full hcopy
    exact { hr with
      cur := show cur ≤ s.dec.olen by omega
      start := hstart
      k := show k ≤ 255 by omega }

theorem tokWordRun_range {w : TokWord} (hr : DecInRange s.cfg s.dec) (hti : s.dec.ti < s.dec.tcnt)
    (h : tokWordRun w s = .next t) : DecInRange s.cfg t.dec := by
  obtain ⟨-, hw⟩ | ⟨-, hw⟩ | ⟨-, -, hw⟩ := tokWordRun_cases w s <;> rw [hw] at h
  · cases h
    exact { hr with }
  · exact tokLit_range hr hti h
  · exact tokMatch_range hr hti h

theorem decPass_range (hc : commandOf s.cmd = .decode) (hr : RegistersInRange s) (h : decPass s = .next t) :
    RegistersInRange t := by
  have hother : commandOf s.cmd ≠ .deserialize := by
    rw [hc]
    decide
  have hmax := hr.nMax
  have htcnt := hr.dec.tcnt
  obtain ⟨hti, w, -, hw⟩ | ⟨-, rfl⟩ := decPass_cases h
  · have hdec := tokWordRun_range hr.dec hti hw
    obtain ⟨e, u, rfl, hu, -⟩ | ⟨ht, -⟩ := tokWordRun_effect hw
    · rw [hu] at hdec ⊢
      exact { hr with
        dec := hdec
        desBody := desBody_of_other hother
        obufLen := le_of_none
        info := show s.dec.ti < 4294967296 by omega }
    · rw [ht] at hdec ⊢
      exact { hr with dec := hdec, desBody := desBody_of_other hother }
  · exact { hr with
      desBody := desBody_of_other hother
      obufLen := le_of_some (hr.dec.cur.trans hr.dec.olen) }

/-! ### The registers of SERIALIZE and DESERIALIZE (R14) -/

theorem serPass_range (hc : commandOf s.cmd = .serialize) (hr : RegistersInRange s) (h : serPass s = .next t) :
    RegistersInRange t := by
  have hother : commandOf s.cmd ≠ .deserialize := by
    rw [hc]
    decide
  have htcnt := hr.serTcnt
  obtain ⟨-, olen, -, rfl⟩ | ⟨-, hti, w, -, rfl⟩ | ⟨-, -, rfl⟩ := serPass_cases h
  · exact { hr with desBody := desBody_of_other hother }
  · exact { hr with serTi := hti, desBody := desBody_of_other hother }
  · refine { hr with desBody := desBody_of_other hother, pbufPlen := le_of_some ?_ }
    rw [persistedSize_eq]
    show 8 + 4 * s.ser.tcnt ≤ 8 + 4 * s.cfg.nMax
    omega

theorem not_running_raise (c c' : Command) (e : Cause) (x : Nat) (u : State) : running c' (raise c e x u) ≠ true := by
  rw [ne_eq, running_iff, raise_status]
  exact fun h => by cases h.1

theorem desRaise_range (hr : RegistersInRange s) (e : Cause) {check : Nat} (hcheck : check < 4294967296)
    (olen tcnt : BitVec 32) : RegistersInRange (raise .deserialize e check (latchHeader olen tcnt s)) :=
  { hr with
    desBody := fun hrun => not_running_raise _ _ _ _ _ hrun |>.elim
    tbufTcnt := le_of_none
    tbufOlen := le_of_none
    info := hcheck }

theorem desPass_range (hrun : running .deserialize s = true) (hr : RegistersInRange s) (h : desPass s = .next t) :
    RegistersInRange t := by
  obtain ⟨-, plen, -, -, rfl⟩ | ⟨-, plen, b0, b1, b2, b3, b4, b5, b6, b7, -, -, -, rfl⟩ |
    ⟨hph, hti, b0, b1, b2, b3, -, rfl⟩ | ⟨hph, -, rfl⟩ := desPass_cases h
  · exact desRaise_range hr .format (by omega) s.des.olen s.des.tcnt
  · obtain ⟨-, hd⟩ | ⟨-, -, hd⟩ | ⟨-, -, -, hd⟩ | ⟨ho, ht, -, hd⟩ :=
      desHeader_cases plen (be32 b0 b1 b2 b3) (be32 b4 b5 b6 b7) s <;> rw [hd]
    · exact desRaise_range hr .format (by omega) _ _
    · exact desRaise_range hr .format (by omega) _ _
    · exact desRaise_range hr .format (by omega) _ _
    · rw [headerInRange_iff] at ho ht
      exact { hr with
        desTi := Nat.zero_le _
        desBody := fun _ _ => ⟨ho.1, ho.2, ht.1, ht.2⟩ }
  · obtain ⟨h0, hle, -, hle'⟩ := hr.desBody hrun hph
    rw [headerValue] at hti
    exact { hr with
      desTi := show s.des.ti + 1 ≤ s.cfg.nMax by omega
      desBody := fun _ _ => ⟨h0, hle, show ((s.des.ti + 1 : Nat) : Int) ≤ s.des.tcnt.toInt by omega, hle'⟩ }
  · obtain ⟨h0, hle, hti, hle'⟩ := hr.desBody hrun hph
    exact { hr with
      desBody := fun _ _ => ⟨h0, hle, hti, hle'⟩
      tbufTcnt := le_of_some (by rw [headerValue]; show s.des.tcnt.toInt.toNat ≤ s.cfg.nMax; omega)
      tbufOlen := le_of_some (by rw [headerValue]; show s.des.olen.toInt.toNat ≤ s.cfg.nMax; omega) }

/-! ### Starts and host moves -/

theorem startOf_range {c : Command} (hr : RegistersInRange s) (h : startOf c s = .next t) : RegistersInRange t := by
  obtain ⟨rfl, n, -, hn, rfl⟩ | ⟨rfl, olen, tcnt, ho, ht, rfl⟩ | ⟨rfl, olen, tcnt, -, ht, rfl⟩ | ⟨rfl, plen, -, rfl⟩ :=
    startOf_cases h
  · exact { hr with
      enc := { hr.enc with n := hn, p := Nat.zero_le _, cnt_p := Nat.le_refl _, cnt_n := Nat.zero_le _ }
      desBody := fun _ hph => by cases hph
      tbufTcnt := le_of_none
      tbufOlen := le_of_none
      info := Nat.zero_lt_succ _ }
  · exact { hr with
      dec := { hr.dec with
        olen := hr.tbufOlen _ ho, tcnt := hr.tbufTcnt _ ht, ti := Nat.zero_le _, cur := Nat.zero_le _ }
      desBody := fun _ hph => by cases hph
      obufLen := le_of_none
      info := Nat.zero_lt_succ _ }
  · exact { hr with
      serTi := Nat.zero_le _
      serTcnt := hr.tbufTcnt _ ht
      desBody := fun _ hph => by cases hph
      pbufPlen := le_of_none
      info := Nat.zero_lt_succ _ }
  · exact { hr with
      desTi := Nat.zero_le _
      desBody := fun _ hph => by cases hph
      tbufTcnt := le_of_none
      tbufOlen := le_of_none
      info := Nat.zero_lt_succ _ }

theorem hostMove_range {m : HostMove} (hm : ∀ c, m ≠ .writeCmd c) (hr : RegistersInRange s)
    (h : hostMove m s = .next t) : RegistersInRange t := by
  obtain ⟨sp, a, v, -, -, rfl⟩ | ⟨x, w, -, -, rfl⟩ | ⟨r, n, -, hn, rfl⟩ | ⟨v, rfl⟩ := hostMove_cases hm h
  · cases sp <;> exact { hr with }
  · exact { hr with }
  · cases r with
    | ibufN => exact { hr with ibufN := le_of_some hn }
    | tbufTcnt => exact { hr with tbufTcnt := le_of_some hn }
    | tbufOlen => exact { hr with tbufOlen := le_of_some hn }
    | obufLen => exact { hr with obufLen := le_of_some hn }
    | pbufPlen => exact { hr with pbufPlen := le_of_some hn }
  · exact { hr with }

theorem step_range_of_busy (hb : s.status = .busy) (hr : RegistersInRange s) (h : step s = .next t) :
    RegistersInRange t := by
  rw [step_busy hb] at h
  cases hc : commandOf s.cmd <;> rw [hc] at h
  case encode => exact encPass_range hc hr h
  case decode => exact decPass_range hc hr h
  case serialize => exact serPass_range hc hr h
  case deserialize => exact desPass_range ((running_iff ..).mpr ⟨hb, hc⟩) hr h

/-- The ranges do not speak of the host's moves. -/
theorem RegistersInRange.withHost (hr : RegistersInRange s) (rest : List HostMove) :
    RegistersInRange { s with host := rest } := { hr with }

/-- Settles O48: each pass, start and host move keeps the ranges. -/
theorem registersStayInRange : Obligations.RegistersStayInRange := by
  intro s t hr h
  obtain ⟨hb, -⟩ | ⟨-, -, rfl⟩ | ⟨-, c, rest, -, hs⟩ | ⟨-, m, rest, -, hm, hs⟩ := step_cases h
  · exact step_range_of_busy hb hr h
  · exact hr
  · exact startOf_range (hr.withHost rest) hs
  · exact hostMove_range hm (hr.withHost rest) hs

end Sys2Proof.Machine
end

section
/-! PROOFS. Every pass writes its destination from its write index on (R29, R35), and what follows for the canonical form,
the address spaces and the part of the destination that holds values, with the obligations on them. -/

namespace Sys2Proof.Machine

/-! ### Cells written one after another -/

section
variable {α : Type} {m m' m'' : List (Nat × α)} {lo mid hi n : Nat}

/-- The cells from `lo` up to `hi` are written, in order, and no other. -/
def WrittenFrom (m m' : List (Nat × α)) (lo hi : Nat) : Prop :=
  ∃ vs, m' = memWrite m lo vs ∧ hi = lo + vs.length

theorem memWrite_append (m : List (Nat × α)) (a : Nat) (vs ws : List α) :
    memWrite m a (vs ++ ws) = memWrite (memWrite m a vs) (a + vs.length) ws := by
  induction vs generalizing m a with
  | nil => rfl
  | cons v vs ih =>
    rw [List.cons_append, memWrite_cons, memWrite_cons, ih, List.length_cons, Nat.add_assoc, Nat.add_comm 1]

theorem WrittenFrom.nothing (m : List (Nat × α)) (lo : Nat) : WrittenFrom m m lo lo := ⟨[], rfl, rfl⟩

theorem WrittenFrom.one (m : List (Nat × α)) (lo : Nat) (v : α) : WrittenFrom m (memSet m lo v) lo (lo + 1) :=
  ⟨[v], rfl, rfl⟩

theorem WrittenFrom.trans (h : WrittenFrom m m' lo mid) (h' : WrittenFrom m' m'' mid hi) : WrittenFrom m m'' lo hi := by
  obtain ⟨vs, rfl, rfl⟩ := h
  obtain ⟨ws, rfl, rfl⟩ := h'
  exact ⟨vs ++ ws, (memWrite_append m lo vs ws).symm, by rw [List.length_append, Nat.add_assoc]⟩

theorem WrittenFrom.wf (h : WrittenFrom m m' lo hi) (hw : Memory.wf m = true) : Memory.wf m' = true := by
  obtain ⟨vs, rfl, -⟩ := h
  exact wf_memWrite hw lo vs

/-- The cells that hold values afterwards are those written and those that did before. -/
theorem WrittenFrom.holds_iff (h : WrittenFrom m m' lo hi) (a : Nat) :
    memGet m' a ≠ none ↔ (lo ≤ a ∧ a < hi) ∨ memGet m a ≠ none := by
  obtain ⟨vs, rfl, rfl⟩ := h
  rw [memGet_memWrite]
  split
  · next hin => simp [hin, show a - lo < vs.length by omega]
  · next hout => simp [hout]

theorem WrittenFrom.within (h : WrittenFrom m m' lo hi) (hm : Within m n) (hn : hi ≤ n) : Within m' n := by
  intro a ha
  obtain ⟨-, hlt⟩ | hold := (h.holds_iff a).mp ha
  · exact Nat.lt_of_lt_of_le hlt hn
  · exact hm a hold

theorem WrittenFrom.le (h : WrittenFrom m m' lo hi) : lo ≤ hi := by
  obtain ⟨vs, -, rfl⟩ := h
  exact Nat.le_add_right ..

theorem WrittenFrom.holdsExactly (h : WrittenFrom m m' lo hi) (hm : HoldsExactly m lo) : HoldsExactly m' hi := by
  intro a
  have hle := h.le
  rw [h.holds_iff, hm a]
  omega

theorem holdsExactly_nil : HoldsExactly ([] : List (Nat × α)) 0 := fun _ =>
  ⟨fun h => absurd rfl h, fun h => absurd h (Nat.not_lt_zero _)⟩

end

/-! ### What each pass writes -/

variable {s t : State}

theorem copyBytes_writtenFrom {olen start left k kOld cur cur' k' : Nat} {m m' : ByteMem}
    (h : copyBytes olen start left k kOld m cur = .moved m' cur' k') : WrittenFrom m m' cur cur' := by
  induction left generalizing k kOld m cur with
  | zero =>
    simp only [copyBytes, CopyEnd.moved.injEq] at h
    obtain ⟨rfl, rfl, -⟩ := h
    exact .nothing ..
  | succ left ih =>
    simp only [copyBytes] at h
    split at h
    · cases h
    · split at h
      · exact (WrittenFrom.one ..).trans (ih h)
      · cases h

theorem appendTrailing_writtenFrom (b : Byte) (s : State) :
    WrittenFrom s.obuf (appendTrailing b s).obuf s.dec.cur (appendTrailing b s).dec.cur := by
  obtain ⟨-, h⟩ | ⟨-, h⟩ := appendTrailing_cases b s <;> rw [h]
  · exact .one ..
  · exact .nothing ..

theorem tokWordRun_writtenFrom {w : TokWord} (h : tokWordRun w s = .next t) :
    (t.status = .error ∧ t.obuf = []) ∨ WrittenFrom s.obuf t.obuf s.dec.cur t.dec.cur := by
  obtain ⟨-, hw⟩ | ⟨-, hw⟩ | ⟨-, -, hw⟩ := tokWordRun_cases w s <;> rw [hw] at h
  · cases h
    exact .inl ⟨rfl, rfl⟩
  · obtain ⟨-, hl⟩ | ⟨-, hl⟩ := tokLit_cases (lenField w) (byteField w) s <;> rw [hl] at h <;> cases h
    · exact .inl ⟨rfl, rfl⟩
    · exact .inr (.one ..)
  · obtain ⟨-, rfl⟩ | ⟨-, m, cur, k, hcopy, rfl⟩ | ⟨-, m, cur, k, -, rfl⟩ := tokMatch_cases h
    · exact .inl ⟨rfl, rfl⟩
    · exact .inr ((copyBytes_writtenFrom hcopy).trans (appendTrailing_writtenFrom ..))
    · exact .inl ⟨rfl, rfl⟩

theorem decPass_writtenFrom (h : decPass s = .next t) :
    (t.status = .error ∧ t.obuf = []) ∨ WrittenFrom s.obuf t.obuf s.dec.cur t.dec.cur := by
  obtain ⟨-, w, -, hw⟩ | ⟨-, rfl⟩ := decPass_cases h
  · exact tokWordRun_writtenFrom hw
  · exact .inr (.nothing ..)

theorem encEmit_writtenFrom (inp : List Byte) (s : State) :
    WrittenFrom s.tbuf (encEmit inp s).tbuf s.enc.cnt (encEmit inp s).enc.cnt := by
  unfold encEmit
  split <;> exact .one ..

theorem encPass_writtenFrom (h : encPass s = .next t) :
    (t.status = .error ∧ t.tbuf = []) ∨ WrittenFrom s.tbuf t.tbuf s.enc.cnt t.enc.cnt := by
  obtain ⟨-, -, rfl⟩ | ⟨-, -, inp, -, rfl⟩ | ⟨-, rfl⟩ := encPass_cases h
  · exact .inl ⟨rfl, rfl⟩
  · exact .inr (encEmit_writtenFrom inp (encSearch inp s))
  · exact .inr (.nothing ..)

theorem serPass_writtenFrom (h : serPass s = .next t) :
    ∃ lo hi, WrittenFrom s.pbuf t.pbuf lo hi ∧ hi ≤ 8 + 4 * t.ser.ti := by
  obtain ⟨-, olen, -, rfl⟩ | ⟨-, -, w, -, rfl⟩ | ⟨-, -, rfl⟩ := serPass_cases h
  · exact ⟨0, 8, ⟨_, rfl, rfl⟩, Nat.le_add_right ..⟩
  · exact ⟨_, tokenOffset (s.ser.ti + 1), ⟨_, rfl, rfl⟩, Nat.le_refl _⟩
  · exact ⟨_, _, .nothing .., Nat.le_refl _⟩

theorem desPass_writtenFrom (h : desPass s = .next t) :
    (t.status = .error ∧ t.tbuf = []) ∨ ∃ lo, WrittenFrom s.tbuf t.tbuf lo t.des.ti := by
  obtain ⟨-, plen, -, -, rfl⟩ | ⟨-, plen, b0, b1, b2, b3, b4, b5, b6, b7, -, -, -, rfl⟩ |
    ⟨-, -, b0, b1, b2, b3, -, rfl⟩ | ⟨-, -, rfl⟩ := desPass_cases h
  · exact .inl ⟨rfl, rfl⟩
  · obtain ⟨-, hd⟩ | ⟨-, -, hd⟩ | ⟨-, -, -, hd⟩ | ⟨-, -, -, hd⟩ :=
      desHeader_cases plen (be32 b0 b1 b2 b3) (be32 b4 b5 b6 b7) s <;> rw [hd]
    · exact .inl ⟨rfl, rfl⟩
    · exact .inl ⟨rfl, rfl⟩
    · exact .inl ⟨rfl, rfl⟩
    · exact .inr ⟨_, .nothing ..⟩
  · exact .inr ⟨_, .one ..⟩
  · exact .inr ⟨_, .nothing ..⟩

/-! ### The canonical form -/

theorem passOf_canonical {c : Command} (hm : MemoriesCanonical s) (h : passOf c s = .next t) : MemoriesCanonical t := by
  cases c with
  | encode =>
    have htbuf : Memory.wf t.tbuf = true := by
      obtain ⟨-, hnil⟩ | hw := encPass_writtenFrom h
      · rw [hnil, wf_nil]
      · exact hw.wf hm.tbuf
    rw [encPass_frame h]
    exact ⟨hm.ibuf, htbuf, hm.obuf, hm.pbuf⟩
  | decode =>
    have hobuf : Memory.wf t.obuf = true := by
      obtain ⟨-, hnil⟩ | hw := decPass_writtenFrom h
      · rw [hnil, wf_nil]
      · exact hw.wf hm.obuf
    rw [decPass_frame h]
    exact ⟨hm.ibuf, hm.tbuf, hobuf, hm.pbuf⟩
  | serialize =>
    obtain ⟨lo, hi, hw, -⟩ := serPass_writtenFrom h
    have hpbuf := hw.wf hm.pbuf
    rw [serPass_frame h]
    exact ⟨hm.ibuf, hm.tbuf, hm.obuf, hpbuf⟩
  | deserialize =>
    have htbuf : Memory.wf t.tbuf = true := by
      obtain ⟨-, hnil⟩ | ⟨lo, hw⟩ := desPass_writtenFrom h
      · rw [hnil, wf_nil]
      · exact hw.wf hm.tbuf
    rw [desPass_frame h]
    exact ⟨hm.ibuf, htbuf, hm.obuf, hm.pbuf⟩

/-- Settles O47: a pass writes cells in order, a start empties the destination, a host move writes one cell. -/
theorem buffersStayCanonical : Obligations.BuffersStayCanonical := by
  intro s t hm h
  obtain ⟨-, hp⟩ | ⟨-, -, rfl⟩ | ⟨-, c, rest, -, hs⟩ | ⟨-, m, rest, -, hmove, hs⟩ := step_cases h
  · exact passOf_canonical hm hp
  · exact hm
  · obtain ⟨-, n, -, -, rfl⟩ | ⟨-, olen, tcnt, -, -, rfl⟩ | ⟨-, olen, tcnt, -, -, rfl⟩ | ⟨-, plen, -, rfl⟩ :=
      startOf_cases hs
    · exact ⟨hm.ibuf, rfl, hm.obuf, hm.pbuf⟩
    · exact ⟨hm.ibuf, hm.tbuf, rfl, hm.pbuf⟩
    · exact ⟨hm.ibuf, hm.tbuf, hm.obuf, rfl⟩
    · exact ⟨hm.ibuf, rfl, hm.obuf, hm.pbuf⟩
  · obtain ⟨sp, a, v, -, -, rfl⟩ | ⟨x, w, -, -, rfl⟩ | ⟨r, n, -, -, rfl⟩ | ⟨v, rfl⟩ := hostMove_cases hmove hs
    · cases sp with
      | ibuf => exact ⟨wf_memSet hm.ibuf a v, hm.tbuf, hm.obuf, hm.pbuf⟩
      | obuf => exact ⟨hm.ibuf, hm.tbuf, wf_memSet hm.obuf a v, hm.pbuf⟩
      | pbuf => exact ⟨hm.ibuf, hm.tbuf, hm.obuf, wf_memSet hm.pbuf a v⟩
    · exact ⟨hm.ibuf, wf_memSet hm.tbuf x w, hm.obuf, hm.pbuf⟩
    · cases r <;> exact ⟨hm.ibuf, hm.tbuf, hm.obuf, hm.pbuf⟩
    · exact ⟨hm.ibuf, hm.tbuf, hm.obuf, hm.pbuf⟩

/-! ### The address spaces -/

/-- What a pass writes ends at its write index, which the next state's ranges bound by the size of the space. -/
theorem passOf_inSpace {c : Command} (hr : RegistersInRange t) (hm : BuffersInSpace s) (h : passOf c s = .next t) :
    BuffersInSpace t := by
  have hcfg := (passOf_frame h).cfg
  cases c with
  | encode =>
    have hcnt : t.enc.cnt ≤ s.cfg.nMax := hcfg ▸ hr.enc.cnt_n.trans hr.enc.n
    have htbuf : Within t.tbuf s.cfg.nMax := by
      obtain ⟨-, hnil⟩ | hw := encPass_writtenFrom h
      · rw [hnil]
        exact within_nil _
      · exact hw.within hm.tbuf hcnt
    rw [encPass_frame h]
    exact ⟨hm.ibuf, htbuf, hm.obuf, hm.pbuf⟩
  | decode =>
    have hcur : t.dec.cur ≤ s.cfg.nMax := hcfg ▸ hr.dec.cur.trans hr.dec.olen
    have hobuf : Within t.obuf s.cfg.nMax := by
      obtain ⟨-, hnil⟩ | hw := decPass_writtenFrom h
      · rw [hnil]
        exact within_nil _
      · exact hw.within hm.obuf hcur
    rw [decPass_frame h]
    exact ⟨hm.ibuf, hm.tbuf, hobuf, hm.pbuf⟩
  | serialize =>
    have hti : t.ser.ti ≤ s.cfg.nMax := hcfg ▸ hr.serTi.trans hr.serTcnt
    obtain ⟨lo, hi, hw, hhi⟩ := serPass_writtenFrom h
    have hpbuf : Within t.pbuf (8 + 4 * s.cfg.nMax) := hw.within hm.pbuf (by omega)
    rw [serPass_frame h]
    exact ⟨hm.ibuf, hm.tbuf, hm.obuf, hpbuf⟩
  | deserialize =>
    have hti : t.des.ti ≤ s.cfg.nMax := hcfg ▸ hr.desTi
    have htbuf : Within t.tbuf s.cfg.nMax := by
      obtain ⟨-, hnil⟩ | ⟨lo, hw⟩ := desPass_writtenFrom h
      · rw [hnil]
        exact within_nil _
      · exact hw.within hm.tbuf hti
    rw [desPass_frame h]
    exact ⟨hm.ibuf, htbuf, hm.obuf, hm.pbuf⟩

/-- Settles O49: a pass writes below its index, a start empties the destination, a host write is below the capacity. -/
theorem buffersStayInTheirSpaces : Obligations.BuffersStayInTheirSpaces := by
  intro s t hr hm h
  have hr' := registersStayInRange s t hr h
  obtain ⟨-, hp⟩ | ⟨-, -, rfl⟩ | ⟨-, c, rest, -, hs⟩ | ⟨-, m, rest, -, hmove, hs⟩ := step_cases h
  · exact passOf_inSpace hr' hm hp
  · exact hm
  · obtain ⟨-, n, -, -, rfl⟩ | ⟨-, olen, tcnt, -, -, rfl⟩ | ⟨-, olen, tcnt, -, -, rfl⟩ | ⟨-, plen, -, rfl⟩ :=
      startOf_cases hs
    · exact ⟨hm.ibuf, within_nil _, hm.obuf, hm.pbuf⟩
    · exact ⟨hm.ibuf, hm.tbuf, within_nil _, hm.pbuf⟩
    · exact ⟨hm.ibuf, hm.tbuf, hm.obuf, within_nil _⟩
    · exact ⟨hm.ibuf, within_nil _, hm.obuf, hm.pbuf⟩
  · obtain ⟨sp, a, v, -, ha, rfl⟩ | ⟨x, w, -, hx, rfl⟩ | ⟨r, n, -, -, rfl⟩ | ⟨v, rfl⟩ := hostMove_cases hmove hs
    · cases sp with
      | ibuf => exact ⟨(WrittenFrom.one _ a v).within hm.ibuf ha, hm.tbuf, hm.obuf, hm.pbuf⟩
      | obuf => exact ⟨hm.ibuf, hm.tbuf, (WrittenFrom.one _ a v).within hm.obuf ha, hm.pbuf⟩
      | pbuf => exact ⟨hm.ibuf, hm.tbuf, hm.obuf, (WrittenFrom.one _ a v).within hm.pbuf ha⟩
    · exact ⟨hm.ibuf, (WrittenFrom.one _ x w).within hm.tbuf hx, hm.obuf, hm.pbuf⟩
    · cases r <;> exact ⟨hm.ibuf, hm.tbuf, hm.obuf, hm.pbuf⟩
    · exact ⟨hm.ibuf, hm.tbuf, hm.obuf, hm.pbuf⟩

/-! ### The part of the destination that holds values (R29, R35) -/

/-- What a running command `c` has written, whatever CMD holds. -/
def WrittenBy : Command → State → Prop
  | .encode, s => HoldsExactly s.tbuf s.enc.cnt ∧ s.tbufTcnt = none ∧ s.tbufOlen = none
  | .decode, s => HoldsExactly s.obuf s.dec.cur ∧ s.obufLen = none
  | .serialize, s => HoldsExactly s.pbuf (if s.phase = .header then 0 else 8 + 4 * s.ser.ti) ∧ s.pbufPlen = none ∧
      (s.phase = .header → s.ser.ti = 0)
  | .deserialize, s => HoldsExactly s.tbuf (if s.phase = .header then 0 else s.des.ti) ∧
      s.tbufTcnt = none ∧ s.tbufOlen = none

theorem destinationWritten_iff (s : State) : DestinationWritten s ↔ WrittenBy (commandOf s.cmd) s := by
  rw [DestinationWritten]
  cases commandOf s.cmd <;> rfl

/-- A pass after which the command still runs has written its destination on to its new write index. -/
theorem passOf_writtenBy {c : Command} (hw : WrittenBy c s) (h : passOf c s = .next t) (hb : t.status = .busy) :
    WrittenBy c t := by
  cases c with
  | encode =>
    obtain ⟨hcells, hlens⟩ := hw
    obtain ⟨-, -, rfl⟩ | ⟨-, -, inp, -, rfl⟩ | ⟨-, rfl⟩ := encPass_cases h
    · cases hb
    · have hcells' := (encEmit_writtenFrom inp (encSearch inp s)).holdsExactly hcells
      rw [encEmit_frame]
      exact ⟨hcells', hlens⟩
    · cases hb
  | decode =>
    obtain ⟨hcells, hlen⟩ := hw
    obtain ⟨-, w, -, hrun⟩ | ⟨-, rfl⟩ := decPass_cases h
    · obtain ⟨herr, -⟩ | hwritten := tokWordRun_writtenFrom hrun
      · cases hb.symm.trans herr
      · have hcells' := hwritten.holdsExactly hcells
        obtain ⟨e, u, rfl, -, -⟩ | ⟨ht, -⟩ := tokWordRun_effect hrun
        · cases hb
        · rw [ht] at hcells' ⊢
          exact ⟨hcells', hlen⟩
    · cases hb
  | serialize =>
    obtain ⟨hcells, hlen, hfirst⟩ := hw
    obtain ⟨hph, olen, -, rfl⟩ | ⟨hph, -, w, -, rfl⟩ | ⟨-, -, rfl⟩ := serPass_cases h
    · rw [hph, if_pos rfl] at hcells
      refine ⟨?_, hlen, fun hbody => by cases hbody⟩
      show HoldsExactly _ (8 + 4 * s.ser.ti)
      rw [hfirst hph]
      exact WrittenFrom.holdsExactly (hi := 8) ⟨_, rfl, rfl⟩ hcells
    · rw [hph, if_neg (by decide)] at hcells
      refine ⟨?_, hlen, fun hhead => by cases hph.symm.trans hhead⟩
      rw [hph, if_neg (by decide)]
      exact WrittenFrom.holdsExactly ⟨bytes32 w, rfl, rfl⟩ hcells
    · cases hb
  | deserialize =>
    obtain ⟨hcells, hlens⟩ := hw
    obtain ⟨-, plen, -, -, rfl⟩ | ⟨hph, plen, b0, b1, b2, b3, b4, b5, b6, b7, -, -, -, rfl⟩ |
      ⟨hph, -, b0, b1, b2, b3, -, rfl⟩ | ⟨-, -, rfl⟩ := desPass_cases h
    · cases hb
    · rw [hph, if_pos rfl] at hcells
      obtain ⟨-, hd⟩ | ⟨-, -, hd⟩ | ⟨-, -, -, hd⟩ | ⟨-, -, -, hd⟩ :=
        desHeader_cases plen (be32 b0 b1 b2 b3) (be32 b4 b5 b6 b7) s <;> rw [hd] at hb ⊢
      · cases hb
      · cases hb
      · cases hb
      · exact ⟨hcells, hlens⟩
    · rw [hph, if_neg (by decide)] at hcells
      refine ⟨?_, hlens⟩
      rw [hph, if_neg (by decide)]
      exact (WrittenFrom.one ..).holdsExactly hcells
    · cases hb

theorem startOf_writtenBy {c : Command} (h : startOf c s = .next t) : WrittenBy c t := by
  obtain ⟨rfl, n, -, -, rfl⟩ | ⟨rfl, olen, tcnt, -, -, rfl⟩ | ⟨rfl, olen, tcnt, -, -, rfl⟩ | ⟨rfl, plen, -, rfl⟩ :=
    startOf_cases h
  · exact ⟨holdsExactly_nil, rfl, rfl⟩
  · exact ⟨holdsExactly_nil, rfl⟩
  · exact ⟨holdsExactly_nil, rfl, fun _ => rfl⟩
  · exact ⟨holdsExactly_nil, rfl, rfl⟩

/-- Settles O51: a pass of a command that goes on writes from its index on; a command that starts has written nothing. -/
theorem runningCommandsWriteTheirDestinationInOrder :
    Obligations.RunningCommandsWriteTheirDestinationInOrder := by
  intro s t hinv h hbusy
  rw [destinationWritten_iff]
  obtain ⟨hb, hp⟩ | ⟨hb, -, rfl⟩ | ⟨-, c, rest, -, hs⟩ | ⟨hb, m, rest, -, hm, hs⟩ := step_cases h
  · rw [(passOf_frame hp).cmd]
    exact passOf_writtenBy ((destinationWritten_iff s).mp (hinv hb)) hp hbusy
  · exact absurd hbusy hb
  · obtain ⟨-, hcmd, -⟩ := startOf_frame hs
    rw [hcmd, commandOf_commandCode]
    exact startOf_writtenBy hs
  · exact absurd ((hostMove_status hm hs).symm.trans hbusy) hb

end Sys2Proof.Machine
end

section
/-! PROOFS. A running command whose source holds values takes its next step and comes to an end (R171, R172), with the
obligations on both. -/

namespace Sys2Proof.Machine

variable {s t : State}

/-! ### Reads of cells that hold values -/

theorem memRead_four {m : ByteMem} {a : Nat} (h : ∀ j, j < 4 → memGet m (a + j) ≠ none) :
    ∃ b0 b1 b2 b3, memRead m a tokenBytes = some [b0, b1, b2, b3] := by
  obtain ⟨vs, hvs⟩ := memRead_isSome m a 4 h
  match vs, memRead_length hvs with
  | [b0, b1, b2, b3], _ => exact ⟨b0, b1, b2, b3, hvs⟩

theorem memRead_eight {m : ByteMem} (h : ∀ j, j < 8 → memGet m j ≠ none) :
    ∃ b0 b1 b2 b3 b4 b5 b6 b7, memRead m 0 headerBytes = some [b0, b1, b2, b3, b4, b5, b6, b7] := by
  obtain ⟨vs, hvs⟩ := memRead_isSome m 0 8 fun j hj => by
    rw [Nat.zero_add]
    exact h j hj
  match vs, memRead_length hvs with
  | [b0, b1, b2, b3, b4, b5, b6, b7], _ => exact ⟨b0, b1, b2, b3, b4, b5, b6, b7, hvs⟩

theorem desPass_short {plen : Nat} (hph : s.phase = .header) (hp : s.pbufPlen = some plen) (hshort : plen < 8) :
    desPass s = .next (raise .deserialize .format 1 s) := by
  have hshort' : plen < headerBytes := hshort
  simp only [desPass, hph, desValidate, hp, if_pos hshort']

theorem desPass_header {plen : Nat} {b0 b1 b2 b3 b4 b5 b6 b7 : Byte} (hph : s.phase = .header)
    (hp : s.pbufPlen = some plen) (hlong : 8 ≤ plen)
    (hread : memRead s.pbuf 0 headerBytes = some [b0, b1, b2, b3, b4, b5, b6, b7]) :
    desPass s = .next (desHeader plen (be32 b0 b1 b2 b3) (be32 b4 b5 b6 b7) s) := by
  have hlong' : ¬ plen < headerBytes := Nat.not_lt.mpr hlong
  simp only [desPass, hph, desValidate, hp, if_neg hlong', hread]

/-! ### The next pass of each command -/

theorem encode_progress (hrun : running .encode s = true) (hsrc : HoldsBelow s.ibuf s.enc.n) :
    ∃ t, encPass s = .next t ∧
      (t.status = .busy → HoldsBelow t.ibuf t.enc.n ∧ t.enc.n - t.enc.p < s.enc.n - s.enc.p) := by
  obtain hend | hp := le_or_gt s.enc.n s.enc.p
  · exact ⟨_, encPass_finish hend, fun hb => by cases hb⟩
  by_cases hg : guardFires s.cfg s.enc.cnt s.enc.n = true
  · exact ⟨_, encPass_guard hp hg, fun hb => by cases hb⟩
  rw [Bool.not_eq_true] at hg
  obtain ⟨inp, hi⟩ := memRead_isSome s.ibuf 0 s.enc.n fun j hj => by
    rw [Nat.zero_add]
    exact hsrc j hj
  obtain ⟨t, w, hexec, he⟩ := encode_emits hrun hp ((guardFires_false_iff ..).mp hg) hi
  rw [exec_encode_running hrun] at hexec
  refine ⟨t, hexec, fun _ => ⟨?_, ?_⟩⟩
  · rw [he.n, he.frame]
    exact hsrc
  · rw [he.n, he.p]
    omega

theorem decode_progress (hrun : running .decode s = true) (hsrc : HoldsBelow s.tbuf s.dec.tcnt)
    (hdest : DestinationWritten s) (hcur : s.dec.cur ≤ s.dec.olen) :
    ∃ t, decPass s = .next t ∧
      (t.status = .busy → HoldsBelow t.tbuf t.dec.tcnt ∧ t.dec.tcnt - t.dec.ti < s.dec.tcnt - s.dec.ti) := by
  obtain hend | hti := le_or_gt s.dec.tcnt s.dec.ti
  · exact ⟨_, decPass_finish hend, fun hb => by cases hb⟩
  obtain ⟨w, hw⟩ := Option.ne_none_iff_exists'.mp (hsrc _ hti)
  obtain ⟨t, hstep, -⟩ := decoderReportsTheFirstFault s w hrun hdest hcur hti hw
  refine ⟨t, (step_running hrun).symm.trans hstep, fun hb => ?_⟩
  obtain herr | ⟨-, hnext, htcnt, -, htbuf, -⟩ := tokensRunInOrder s t hrun hti hstep
  · cases hb.symm.trans herr
  · rw [htcnt, htbuf, hnext]
    exact ⟨hsrc, by omega⟩

/-- R172: what is left of SERIALIZE's or DESERIALIZE's run with `k` tokens to go. -/
def phaseBound (s : State) (k : Nat) : Nat := if s.phase = .header then k + 1 else k

theorem serialize_progress (hsrc : HoldsBelow s.tbuf s.ser.tcnt) (holen : s.tbufOlen ≠ none) :
    ∃ t, serPass s = .next t ∧
      (t.status = .busy → (HoldsBelow t.tbuf t.ser.tcnt ∧ t.tbufOlen ≠ none) ∧
        phaseBound t (t.ser.tcnt - t.ser.ti) < phaseBound s (s.ser.tcnt - s.ser.ti)) := by
  cases hph : s.phase with
  | header =>
    obtain ⟨olen, ho⟩ := Option.ne_none_iff_exists'.mp holen
    refine ⟨_, serPass_header hph ho, fun _ => ⟨⟨hsrc, holen⟩, ?_⟩⟩
    rw [phaseBound, phaseBound, hph]
    exact Nat.lt_succ_self _
  | body =>
    obtain hend | hti := le_or_gt s.ser.tcnt s.ser.ti
    · exact ⟨_, serPass_finish hph hend, fun hb => by cases hb⟩
    obtain ⟨w, hw⟩ := Option.ne_none_iff_exists'.mp (hsrc _ hti)
    refine ⟨_, serPass_token hph hti hw, fun _ => ⟨⟨hsrc, holen⟩, ?_⟩⟩
    simp only [phaseBound, hph, reduceCtorEq, if_false]
    omega

theorem deserialize_progress {plen : Nat} (hp : s.pbufPlen = some plen) (hsrc : HoldsBelow s.pbuf plen)
    (hbody : s.phase = .body → (plen : Int) = 8 + 4 * s.des.tcnt.toInt) :
    ∃ t, desPass s = .next t ∧
      (t.status = .busy → t.pbufPlen = some plen ∧ HoldsBelow t.pbuf plen ∧
        (t.phase = .body → (plen : Int) = 8 + 4 * t.des.tcnt.toInt) ∧
        (if t.phase = .header then (plen - 8) / 4 + 1 else t.des.tcnt.toInt.toNat - t.des.ti) <
          (if s.phase = .header then (plen - 8) / 4 + 1 else s.des.tcnt.toInt.toNat - s.des.ti)) := by
  cases hph : s.phase with
  | header =>
    obtain hshort | hlong := Nat.lt_or_ge plen 8
    · exact ⟨_, desPass_short hph hp hshort, fun hb => by cases hb⟩
    obtain ⟨b0, b1, b2, b3, b4, b5, b6, b7, hread⟩ := memRead_eight (m := s.pbuf) fun j hj => hsrc j (by omega)
    refine ⟨_, desPass_header hph hp hlong hread, fun hb => ?_⟩
    obtain ⟨-, hd⟩ | ⟨-, -, hd⟩ | ⟨-, -, -, hd⟩ | ⟨-, ht, hsize, hd⟩ :=
      desHeader_cases plen (be32 b0 b1 b2 b3) (be32 b4 b5 b6 b7) s <;> rw [hd] at hb ⊢
    · cases hb
    · cases hb
    · cases hb
    · obtain ⟨h0, -⟩ := (headerInRange_iff ..).mp ht
      have hsize' := (eq_persistedSize_iff h0 plen).mp hsize
      refine ⟨hp, hsrc, fun _ => hsize', ?_⟩
      simp only [reduceCtorEq, if_false, if_true]
      omega
  | body =>
    have hsize := hbody hph
    by_cases hti : (s.des.ti : Int) < headerValue s.des.tcnt
    · rw [headerValue] at hti
      obtain ⟨b0, b1, b2, b3, hread⟩ := memRead_four (m := s.pbuf) (a := tokenOffset s.des.ti) fun j hj => by
        rw [tokenOffset_eq]
        exact hsrc _ (by omega)
      refine ⟨_, desPass_token hph hti hread, fun _ => ⟨hp, hsrc, fun _ => hsize, ?_⟩⟩
      simp only [hph, reduceCtorEq, if_false]
      omega
    · exact ⟨_, desPass_finish hph (Int.not_lt.mp hti), fun hb => by cases hb⟩

/-! ### The next step -/

/-- R172: a running command that may rely on its source takes a step, can go on from there, and has less left to do. -/
theorem step_progress (hb : s.status = .busy) (hready : RunReady s) (hr : RegistersInRange s) :
    ∃ t, step s = .next t ∧ (t.status = .busy → RunReady t ∧ remaining t < remaining s) := by
  obtain ⟨hsrc, hdest⟩ := hready
  suffices h : ∃ t, passOf (commandOf s.cmd) s = .next t ∧
      (t.status = .busy → SourceReady t ∧ remaining t < remaining s) by
    obtain ⟨t, hpass, hgo⟩ := h
    have hstep := (step_busy hb).trans hpass
    refine ⟨t, hstep, fun hbt => ⟨⟨(hgo hbt).1, ?_⟩, (hgo hbt).2⟩⟩
    exact runningCommandsWriteTheirDestinationInOrder s t (fun _ => hdest) hstep hbt
  have hcmd : ∀ {c t}, passOf c s = .next t → commandOf t.cmd = commandOf s.cmd :=
    fun h => congrArg commandOf (passOf_frame h).cmd
  rw [SourceReady] at hsrc
  cases hc : commandOf s.cmd <;> rw [hc] at hsrc
  case encode =>
    obtain ⟨t, hpass, hgo⟩ := encode_progress ((running_iff ..).mpr ⟨hb, hc⟩) hsrc
    refine ⟨t, hpass, fun hbt => ?_⟩
    have hct := (hcmd (c := .encode) hpass).trans hc
    rw [SourceReady, remaining, remaining, hct, hc]
    exact hgo hbt
  case decode =>
    obtain ⟨t, hpass, hgo⟩ := decode_progress ((running_iff ..).mpr ⟨hb, hc⟩) hsrc hdest hr.dec.cur
    refine ⟨t, hpass, fun hbt => ?_⟩
    have hct := (hcmd (c := .decode) hpass).trans hc
    rw [SourceReady, remaining, remaining, hct, hc]
    exact hgo hbt
  case serialize =>
    obtain ⟨t, hpass, hgo⟩ := serialize_progress hsrc.1 hsrc.2
    refine ⟨t, hpass, fun hbt => ?_⟩
    have hct := (hcmd (c := .serialize) hpass).trans hc
    rw [SourceReady, remaining, remaining, hct, hc]
    exact hgo hbt
  case deserialize =>
    obtain ⟨plen, hp, hbelow, hbody⟩ := hsrc
    obtain ⟨t, hpass, hgo⟩ := deserialize_progress hp hbelow hbody
    refine ⟨t, hpass, fun hbt => ?_⟩
    have hct := (hcmd (c := .deserialize) hpass).trans hc
    obtain ⟨hp', hbelow', hbody', hless⟩ := hgo hbt
    rw [SourceReady, remaining, remaining, hct, hc, hp, hp']
    exact ⟨⟨plen, rfl, hbelow', hbody'⟩, hless⟩

/-- Settles O52: the step is there and keeps source and destination as a running command needs them. -/
theorem runningCommandsProgress : Obligations.RunningCommandsProgress := by
  intro s hb hready hr
  obtain ⟨t, hstep, hgo⟩ := step_progress hb hready hr
  exact ⟨t, hstep, fun hbt => (hgo hbt).1⟩

/-! ### Runs -/

/-- A command whose every step while it runs keeps `Inv` and lowers `bound` ends, within `bound` and one step more. -/
theorem runs_to_end {Inv : State → Prop} {bound : State → Nat}
    (hstep : ∀ s, Inv s → s.status = .busy →
      ∃ t, step s = .next t ∧ Inv t ∧ (t.status = .busy → bound t < bound s))
    (s : State) (hs : Inv s) : ∃ k t, k ≤ bound s + 1 ∧ runs k s = .next t ∧ Inv t ∧ t.status ≠ .busy := by
  induction hn : bound s using Nat.strong_induction_on generalizing s with
  | _ n ih =>
    by_cases hb : s.status = .busy
    · obtain ⟨t, hst, ht, hless⟩ := hstep s hs hb
      by_cases hbt : t.status = .busy
      · have hlt := hless hbt
        obtain ⟨k, u, hk, hrun, hu⟩ := ih (bound t) (hn ▸ hlt) t ht rfl
        exact ⟨k + 1, u, by omega, (runs_next hst).trans hrun, hu⟩
      · exact ⟨1, t, by omega, runs_next hst, ht, hbt⟩
    · exact ⟨0, s, by omega, rfl, hs, hb⟩

/-- What holds from the start of a command's run to its end: it runs and may rely on its source, or it has ended. -/
def OnItsWay (s : State) : Prop :=
  (s.status = .busy ∨ s.status = .done ∨ s.status = .error) ∧ (s.status = .busy → RunReady s ∧ RegistersInRange s)

theorem OnItsWay.step (h : OnItsWay s) (hb : s.status = .busy) :
    ∃ t, step s = .next t ∧ OnItsWay t ∧ (t.status = .busy → remaining t < remaining s) := by
  obtain ⟨-, hrest⟩ := h
  obtain ⟨hready, hr⟩ := hrest hb
  obtain ⟨t, hstep, hgo⟩ := step_progress hb hready hr
  exact ⟨t, hstep, ⟨step_status_of_busy hb hstep, fun hbt => ⟨(hgo hbt).1, step_range_of_busy hb hr hstep⟩⟩,
    fun hbt => (hgo hbt).2⟩

/-- Settles O53: progress, the ranges and the bound of what is left, put together along the run. -/
theorem commandsEndWithinTheirBound : Obligations.CommandsEndWithinTheirBound := by
  intro s hb hready hr
  obtain ⟨k, t, hk, hrun, ⟨hstatus, -⟩, hnot⟩ :=
    runs_to_end (fun _ h hbu => OnItsWay.step h hbu) s ⟨.inl hb, fun _ => ⟨hready, hr⟩⟩
  exact ⟨k, t, hk, hrun, hstatus.resolve_left hnot⟩

end Sys2Proof.Machine
end

section
/-! PROOFS. Nothing outside what is observable is ever seen (R11, R27): a step from the observable part of a state is, to
an observer, the step from the state itself; and the obligation on it. -/

namespace Sys2Proof.Machine

variable {s : State} {c : Command}

/-! ### The observable part, case by case -/

/-- The state without any unit register, CMD and phase. -/
def quiet (s : State) : State :=
  { s with
    cmd := 0, phase := .header, enc := State.reset.enc, dec := State.reset.dec, ser := State.reset.ser,
    des := State.reset.des }

/-- What an observer sees while the command `c` runs. -/
def seen (c : Command) (s : State) : State :=
  match c with
  | .encode => { quiet s with
      cmd := s.cmd, enc := { s.enc with lo := 0, maxlen := 0, i := 0, k := 0, blen := 0, bdist := 0 } }
  | .decode => { quiet s with cmd := s.cmd, dec := { s.dec with d := 0, l := 0, b := 0, start := 0, k := 0 } }
  | .serialize => { quiet s with cmd := s.cmd, phase := s.phase, ser := s.ser }
  | .deserialize => { quiet s with
      cmd := s.cmd, phase := s.phase, des := if s.phase = .header then State.reset.des else s.des }

theorem observable_free (hb : s.status ≠ .busy) : observable s = quiet s := by
  have hnot : ∀ c, running c s = false := fun c => by
    rw [← Bool.not_eq_true, running_iff]
    exact fun h => hb h.1
  simp [observable, quiet, hnot, hb]

theorem observable_running (hrun : running c s = true) : observable s = seen c s := by
  obtain ⟨hb, hc⟩ := (running_iff c s).mp hrun
  have hother : ∀ c', c' ≠ c → running c' s = false := fun c' hne => by
    rw [← Bool.not_eq_true, running_iff]
    exact fun h => hne (h.2.symm.trans hc)
  cases c <;> simp [observable, seen, quiet, hrun, hb, hother]

/-- Two states in which `c` runs look the same where what is seen of `c`'s run is the same. -/
theorem observable_congr {u v : State} (hu : running c u = true) (hv : running c v = true) (h : seen c u = seen c v) :
    observable u = observable v := by
  rw [observable_running hu, observable_running hv, h]

/-- Of a state that an error leaves, an observer sees the registers of no unit. -/
theorem observable_raise (c : Command) (e : Cause) (x : Nat) (u : State) :
    observable (raise c e x u) = raise c e x (quiet u) := by
  rw [observable_free (by rw [raise_status]; decide)]
  cases c <;> rfl

theorem observable_finish (c : Command) (u : State) : observable (finishOf c u) = quiet (finishOf c u) :=
  observable_free (by rw [finishOf_status]; decide)

/-! ### Outcomes as an observer sees them -/

/-- The outcome with the next state's observable part alone. -/
def observed : Host.Outcome State Fault Refusal → Host.Outcome State Fault Refusal
  | .next s => .next (observable s)
  | .fault f => .fault f
  | .refused r => .refused r

theorem observed_next {u v : State} (h : observable u = observable v) :
    observed (.next u) = observed (.next v) := congrArg Host.Outcome.next h

theorem sameOutcome_of_observed {o o' : Host.Outcome State Fault Refusal} (h : observed o = observed o') :
    SameOutcome o o' := by
  cases o <;> cases o' <;> simp only [observed, reduceCtorEq, Host.Outcome.next.injEq, Host.Outcome.fault.injEq,
    Host.Outcome.refused.injEq] at h <;> exact h

/-- Errors of states that agree but for the unit registers look the same. -/
theorem observed_raise {u v : State} (e : Cause) (x : Nat)
    (h : raise c e x (quiet u) = raise c e x (quiet v)) :
    observed (.next (raise c e x u)) = observed (.next (raise c e x v)) := by
  apply observed_next
  rw [observable_raise, observable_raise, h]

theorem observed_finish {u v : State} (h : quiet (finishOf c u) = quiet (finishOf c v)) :
    observed (.next (finishOf c u)) = observed (.next (finishOf c v)) := by
  apply observed_next
  rw [observable_finish, observable_finish, h]

/-! ### ENCODE -/

/-- R77: what the loop variables I and K held has no part in the search's result. -/
theorem scan_result_congr (inp : List Byte) (p maxlen left i : Nat) {best best' : Best} (hlen : best.blen = best'.blen)
    (hdist : best.bdist = best'.bdist) :
    (scan inp p maxlen left i best).blen = (scan inp p maxlen left i best').blen ∧
      (scan inp p maxlen left i best).bdist = (scan inp p maxlen left i best').bdist := by
  induction left generalizing i best best' with
  | zero => exact ⟨hlen, hdist⟩
  | succ left ih =>
    rw [scan, scan]
    apply ih
    · unfold better
      rw [hlen]
      split <;> rfl
    · unfold better
      rw [hlen]
      split
      · rfl
      · exact hdist

theorem search_result_congr (inp : List Byte) (n p i k i' k' : Nat) :
    (search inp n p i k).blen = (search inp n p i' k').blen ∧
      (search inp n p i k).bdist = (search inp n p i' k').bdist :=
  scan_result_congr inp p (maxLength n p) (p - windowLo p) (windowLo p) rfl rfl

theorem seen_encMatch (inp : List Byte) (u : State) :
    seen .encode (encMatch inp u) = { seen .encode u with
      tbuf := memSet u.tbuf u.enc.cnt (tokWord (BitVec.ofNat 16 u.enc.bdist) (BitVec.ofNat 8 u.enc.blen)
        (trailingByte inp u.enc.n (u.enc.p + u.enc.blen)))
      enc := { (seen .encode u).enc with p := u.enc.p + u.enc.blen + 1, cnt := u.enc.cnt + 1 } } := rfl

/-- R75, R77: an emission shows the search's length and distance alone. -/
theorem encEmit_observable (inp : List Byte) (hrun : running .encode s = true) :
    observable (encEmit inp (encSearch inp (seen .encode s))) = observable (encEmit inp (encSearch inp s)) := by
  obtain ⟨hlen, hdist⟩ := search_result_congr inp s.enc.n s.enc.p 0 0 s.enc.i s.enc.k
  have hlen' : (encSearch inp (seen .encode s)).enc.blen = (encSearch inp s).enc.blen := hlen
  have hdist' : (encSearch inp (seen .encode s)).enc.bdist = (encSearch inp s).enc.bdist := hdist
  obtain h | h := Nat.lt_or_ge 2 (encSearch inp s).enc.blen
  · rw [encEmit_match inp h, encEmit_match inp (hlen'.symm ▸ h)]
    refine observable_congr (c := .encode) hrun hrun ?_
    rw [seen_encMatch, seen_encMatch, hlen', hdist']
    rfl
  · rw [encEmit_literal inp h, encEmit_literal inp (hlen'.symm ▸ h)]
    exact observable_congr (c := .encode) hrun hrun rfl

theorem encPass_observable (hrun : running .encode s = true) :
    observed (encPass (seen .encode s)) = observed (encPass s) := by
  have hn : (seen .encode s).enc.n = s.enc.n := rfl
  have hp : (seen .encode s).enc.p = s.enc.p := rfl
  have hcnt : (seen .encode s).enc.cnt = s.enc.cnt := rfl
  have hcfg : (seen .encode s).cfg = s.cfg := rfl
  have hibuf : (seen .encode s).ibuf = s.ibuf := rfl
  simp only [encPass, hn, hp, hcnt, hcfg, hibuf]
  split
  · split
    · exact observed_raise _ _ rfl
    · split
      · exact observed_next (encEmit_observable _ hrun)
      · rfl
  · exact observed_finish (c := .encode) rfl

/-! ### DECODE -/

/-- R95: what K held has no part in a copy but that K keeps it where there is nothing to copy. -/
theorem copyBytes_kOld (olen start left k kOld kOld' : Nat) (m : ByteMem) (cur : Nat) :
    (∃ m' cur' k1 k2, copyBytes olen start left k kOld m cur = .moved m' cur' k1 ∧
      copyBytes olen start left k kOld' m cur = .moved m' cur' k2) ∨
    (∃ m' cur' k1, copyBytes olen start left k kOld m cur = .full m' cur' k1 ∧
      copyBytes olen start left k kOld' m cur = .full m' cur' k1) ∨
    ∃ a, copyBytes olen start left k kOld m cur = .absent a ∧ copyBytes olen start left k kOld' m cur = .absent a := by
  cases left with
  | zero => exact .inl ⟨m, cur, kOld, kOld', rfl, rfl⟩
  | succ left =>
    have heq : copyBytes olen start (left + 1) k kOld' m cur = copyBytes olen start (left + 1) k kOld m cur := rfl
    rw [heq]
    cases copyBytes olen start (left + 1) k kOld m cur with
    | moved m' cur' k1 => exact .inl ⟨m', cur', k1, k1, rfl, rfl⟩
    | full m' cur' k1 => exact .inr (.inl ⟨m', cur', k1, rfl, rfl⟩)
    | absent a => exact .inr (.inr ⟨a, rfl, rfl⟩)

theorem tokLit_observable (l b : Byte) (hrun : running .decode s = true) :
    observed (tokLit l b (seen .decode s)) = observed (tokLit l b s) := by
  have holen : (seen .decode s).dec.olen = s.dec.olen := rfl
  have hcur : (seen .decode s).dec.cur = s.dec.cur := rfl
  simp only [tokLit, holen, hcur]
  split
  · exact observed_raise _ _ rfl
  · exact observed_next (observable_congr (c := .decode) hrun hrun rfl)

theorem appendTrailing_observable (d : Dist) (l b : Byte) (m : ByteMem) (cur k k' : Nat)
    (hrun : running .decode s = true) :
    observable (nextToken (appendTrailing b (copied d l b m cur k (seen .decode s)))) =
      observable (nextToken (appendTrailing b (copied d l b m cur k' s))) := by
  obtain ⟨hyes, h⟩ | ⟨hno, h⟩ := appendTrailing_copied d l b m cur k' s <;> rw [h]
  · obtain ⟨-, h'⟩ | ⟨hno, -⟩ := appendTrailing_copied d l b m cur k (seen .decode s)
    · rw [h']
      exact observable_congr (c := .decode) hrun hrun rfl
    · exact absurd hyes hno
  · obtain ⟨hyes, -⟩ | ⟨-, h'⟩ := appendTrailing_copied d l b m cur k (seen .decode s)
    · exact absurd hyes hno
    · rw [h']
      exact observable_congr (c := .decode) hrun hrun rfl

theorem tokMatch_absent {d : Dist} {l : Byte} {a : Nat} (b : Byte) (hwithin : d.toInt ≤ (s.dec.cur : Int))
    (hcopy : copyBytes s.dec.olen (s.dec.cur - d.toNat) l.toNat 0 s.dec.k s.obuf s.dec.cur = .absent a) :
    tokMatch d l b s = .fault (.noValue .obuf a) := by
  simp only [tokMatch, if_neg (Int.not_lt.2 hwithin), hcopy]

theorem tokMatch_observable (d : Dist) (l b : Byte) (hrun : running .decode s = true) :
    observed (tokMatch d l b (seen .decode s)) = observed (tokMatch d l b s) := by
  by_cases hbefore : (s.dec.cur : Int) < d.toInt
  · rw [tokMatch_beforeStart b hbefore, tokMatch_beforeStart (s := seen .decode s) b hbefore]
    exact observed_raise _ _ rfl
  have hwithin := Int.not_lt.mp hbefore
  obtain ⟨m, cur, k1, k2, h1, h2⟩ | ⟨m, cur, k1, h1, h2⟩ | ⟨a, h1, h2⟩ :=
    copyBytes_kOld s.dec.olen (s.dec.cur - d.toNat) l.toNat 0 0 s.dec.k s.obuf s.dec.cur
  · rw [tokMatch_moved b hwithin h2, tokMatch_moved (s := seen .decode s) b hwithin h1]
    exact observed_next (appendTrailing_observable d l b m cur k1 k2 hrun)
  · rw [tokMatch_full b hwithin h2, tokMatch_full (s := seen .decode s) b hwithin h1]
    exact observed_raise _ _ rfl
  · rw [tokMatch_absent b hwithin h2, tokMatch_absent (s := seen .decode s) b hwithin h1]

theorem tokWordRun_observable (w : TokWord) (hrun : running .decode s = true) :
    observed (tokWordRun w (seen .decode s)) = observed (tokWordRun w s) := by
  unfold tokWordRun
  split
  · exact observed_raise _ _ rfl
  · split
    · exact tokLit_observable _ _ hrun
    · exact tokMatch_observable _ _ _ hrun

theorem decPass_observable (hrun : running .decode s = true) :
    observed (decPass (seen .decode s)) = observed (decPass s) := by
  have hti : (seen .decode s).dec.ti = s.dec.ti := rfl
  have htcnt : (seen .decode s).dec.tcnt = s.dec.tcnt := rfl
  have htbuf : (seen .decode s).tbuf = s.tbuf := rfl
  simp only [decPass, hti, htcnt, htbuf]
  split
  · split
    · exact tokWordRun_observable _ hrun
    · rfl
  · exact observed_finish (c := .decode) rfl

/-! ### SERIALIZE and DESERIALIZE -/

theorem serPass_observable (hrun : running .serialize s = true) :
    observed (serPass (seen .serialize s)) = observed (serPass s) := by
  have hph : (seen .serialize s).phase = s.phase := rfl
  have hser : (seen .serialize s).ser = s.ser := rfl
  have htbuf : (seen .serialize s).tbuf = s.tbuf := rfl
  have holen : (seen .serialize s).tbufOlen = s.tbufOlen := rfl
  simp only [serPass, serHeader, serToken, hph, hser, htbuf, holen]
  split
  · split
    · exact observed_next (observable_congr (c := .serialize) hrun hrun rfl)
    · rfl
  · split
    · split
      · exact observed_next (observable_congr (c := .serialize) hrun hrun rfl)
      · rfl
    · exact observed_finish (c := .serialize) rfl

theorem desHeader_observable (plen : Nat) (olen tcnt : BitVec 32) (hrun : running .deserialize s = true) :
    observed (.next (desHeader plen olen tcnt (seen .deserialize s))) = observed (.next (desHeader plen olen tcnt s)) := by
  have hcfg : (seen .deserialize s).cfg = s.cfg := rfl
  simp only [desHeader, hcfg]
  split
  · exact observed_raise _ _ rfl
  · split
    · exact observed_raise _ _ rfl
    · split
      · exact observed_raise _ _ rfl
      · exact observed_next (observable_congr (c := .deserialize) hrun hrun rfl)

theorem desPass_observable (hrun : running .deserialize s = true) :
    observed (desPass (seen .deserialize s)) = observed (desPass s) := by
  have hph : (seen .deserialize s).phase = s.phase := rfl
  have hpbuf : (seen .deserialize s).pbuf = s.pbuf := rfl
  have hplen : (seen .deserialize s).pbufPlen = s.pbufPlen := rfl
  cases hs : s.phase with
  | header =>
    simp only [desPass, desValidate, hph, hs, hpbuf, hplen]
    split
    · split
      · exact observed_raise _ _ rfl
      · split
        · exact desHeader_observable _ _ _ hrun
        · rfl
    · rfl
  | body =>
    have hdes : (seen .deserialize s).des = s.des := if_neg (by rw [hs]; decide)
    simp only [desPass, desToken, hph, hs, hpbuf, hdes]
    split
    · split
      · refine observed_next (observable_congr (c := .deserialize) hrun hrun ?_)
        simp only [seen, hs]
        rfl
      · rfl
    · refine observed_finish (c := .deserialize) ?_
      simp only [finishOf, desFinish, hdes]
      rfl

theorem passOf_observable (hrun : running c s = true) : observed (passOf c (seen c s)) = observed (passOf c s) := by
  cases c with
  | encode => exact encPass_observable hrun
  | decode => exact decPass_observable hrun
  | serialize => exact serPass_observable hrun
  | deserialize => exact desPass_observable hrun

/-! ### The host's turn -/

theorem startOf_observable (c : Command) (s : State) : observed (startOf c (quiet s)) = observed (startOf c s) := by
  have hcfg : (quiet s).cfg = s.cfg := rfl
  have hn : (quiet s).ibufN = s.ibufN := rfl
  have htcnt : (quiet s).tbufTcnt = s.tbufTcnt := rfl
  have holen : (quiet s).tbufOlen = s.tbufOlen := rfl
  have hplen : (quiet s).pbufPlen = s.pbufPlen := rfl
  cases c with
  | encode =>
    simp only [startOf, encStart, hn, hcfg]
    split
    · rfl
    · split
      · exact observed_next (observable_congr (c := .encode) rfl rfl rfl)
      · rfl
  | decode =>
    simp only [startOf, decStart, holen, htcnt]
    split
    · exact observed_next (observable_congr (c := .decode) rfl rfl rfl)
    · rfl
    · rfl
  | serialize =>
    simp only [startOf, serStart, holen, htcnt]
    split
    · exact observed_next (observable_congr (c := .serialize) rfl rfl rfl)
    · rfl
    · rfl
  | deserialize =>
    simp only [startOf, desStart, hplen]
    split
    · exact observed_next (observable_congr (c := .deserialize) rfl rfl rfl)
    · rfl

theorem hostMove_observable {m : HostMove} (hm : ∀ c, m ≠ .writeCmd c) (hb : s.status ≠ .busy) :
    observed (hostMove m (quiet s)) = observed (hostMove m s) := by
  have hfree : ∀ {u v : State}, u.status = s.status → v.status = s.status → quiet u = quiet v →
      observed (.next u) = observed (.next v) := fun hu hv h => by
    apply observed_next
    rw [observable_free (hu ▸ hb), observable_free (hv ▸ hb), h]
  have hcfg : (quiet s).cfg = s.cfg := rfl
  have htbuf : (quiet s).tbuf = s.tbuf := rfl
  have htcnt : (quiet s).tbufTcnt = s.tbufTcnt := rfl
  have hbytes : ∀ sp, (quiet s).bytes sp = s.bytes sp := fun sp => by cases sp <;> rfl
  have hlen : ∀ r, (quiet s).len r = s.len r := fun r => by cases r <;> rfl
  cases m with
  | writeCmd c => exact absurd rfl (hm c)
  | writeByte sp a v =>
    simp only [hostMove, hostWriteByte, hcfg, hbytes]
    split
    · exact hfree (setBytes_status ..) (setBytes_status ..) (by cases sp <;> rfl)
    · rfl
  | writeToken a w =>
    simp only [hostMove, hostWriteToken, hcfg, htbuf]
    split
    · exact hfree rfl rfl rfl
    · rfl
  | writeLen r n =>
    simp only [hostMove, hostWriteLen, hcfg]
    split
    · exact hfree (setLen_status ..) (setLen_status ..) (by cases r <;> rfl)
    · rfl
  | readByte sp a =>
    simp only [hostMove, hostReadByte, hlen, hbytes]
    split
    · rfl
    · split
      · split
        · exact hfree rfl rfl rfl
        · rfl
      · rfl
  | readToken a =>
    simp only [hostMove, hostReadToken, htcnt, htbuf]
    split
    · rfl
    · split
      · split
        · exact hfree rfl rfl rfl
        · rfl
      · rfl
  | readLen r =>
    simp only [hostMove, hostReadLen, hlen]
    split
    · exact hfree rfl rfl rfl
    · rfl
  | readCsr r => exact hfree rfl rfl (by cases r <;> rfl)

/-! ### The step -/

theorem step_observable (s : State) : observed (step (observable s)) = observed (step s) := by
  by_cases hb : s.status = .busy
  · have hrun : running (commandOf s.cmd) s = true := (running_iff ..).mpr ⟨hb, rfl⟩
    have hcmd : (observable s).cmd = s.cmd := if_pos hb
    have hb' : (observable s).status = .busy := hb
    rw [step_busy hb', step_busy hb, hcmd, observable_running hrun]
    exact passOf_observable hrun
  · rw [observable_free hb]
    cases hh : s.host with
    | nil =>
      rw [step_idle (s := quiet s) hb hh, step_idle hb hh]
      apply observed_next
      rw [observable_free (s := quiet s) hb, observable_free hb]
      rfl
    | cons m rest =>
      by_cases hm : ∃ c, m = .writeCmd c
      · obtain ⟨c, rfl⟩ := hm
        rw [step_writeCmd (s := quiet s) hb hh, step_writeCmd hb hh]
        exact startOf_observable (commandOf c) { s with host := rest }
      · rw [step_host (s := quiet s) hb hh, step_host hb hh]
        exact hostMove_observable (s := { s with host := rest }) (fun c hc => hm ⟨c, hc⟩) hb

/-- Settles O54: each of the two steps looks like the one from the observable part, which the two states share. -/
theorem unitStateIsNeverObserved : Obligations.UnitStateIsNeverObserved := by
  intro s t h
  apply sameOutcome_of_observed
  rw [← step_observable s, ← step_observable t, h]

end Sys2Proof.Machine
end

section
/-! PROOFS. Whole runs of SERIALIZE and DESERIALIZE, each the other's inverse (R125), with the obligations on them. -/

namespace Sys2Proof.Machine

variable {s t u : State} {c : Command}

/-! ### Runs of a command -/

theorem step_issue (hb : s.status ≠ .busy) : step (issue c s) = startOf c { s with host := [] } := by
  have h : step (issue c s) = startOf (commandOf (commandCode c)) { s with host := [] } := step_writeCmd hb rfl
  rw [h, commandOf_commandCode]

/-- With no command running and no move left nothing changes any more. -/
theorem runs_idle (hb : s.status ≠ .busy) (hh : s.host = []) (k : Nat) : runs k s = .next s := by
  induction k with
  | zero => rfl
  | succ k ih => rw [runs_next (step_idle hb hh), ih]

/-- A run that has come to its end has one last state. -/
theorem runs_end_unique {j k : Nat} (ht : runs j s = .next t) (hbt : t.status ≠ .busy) (hht : t.host = [])
    (hu : runs k s = .next u) (hbu : u.status ≠ .busy) (hhu : u.host = []) : t = u := by
  have hlast : ∀ {j k : Nat} {t u : State}, j ≤ k → runs j s = .next t → t.status ≠ .busy → t.host = [] →
      runs k s = .next u → t = u := fun {j k t u} hjk ht hbt hht hu => by
    obtain ⟨i, rfl⟩ := Nat.exists_eq_add_of_le hjk
    rw [runs_add ht, runs_idle hbt hht] at hu
    exact Host.Outcome.next.inj hu
  obtain hjk | hkj := Nat.le_total j k
  · exact hlast hjk ht hbt hht hu
  · exact (hlast hkj hu hbu hhu ht).symm

/-! ### A persisted stream (R31) -/

theorem memRead_congr {α : Type} {m m' : List (Nat × α)} {a n : Nat}
    (h : ∀ j, j < n → memGet m (a + j) = memGet m' (a + j)) : memRead m a n = memRead m' a n := by
  induction n generalizing a with
  | zero => rfl
  | succ n ih =>
    have hhead : memGet m a = memGet m' a := h 0 (Nat.zero_lt_succ n)
    have htail : memRead m (a + 1) n = memRead m' (a + 1) n := ih fun j hj => by
      rw [Nat.add_assoc, Nat.add_comm 1]
      exact h (j + 1) (Nat.succ_lt_succ hj)
    rw [memRead, memRead, hhead, htail]

theorem memRead_memWrite_same {α : Type} (m : List (Nat × α)) (a : Nat) (vs : List α) :
    memRead (memWrite m a vs) a vs.length = some vs :=
  (memRead_eq_some ..).mpr ⟨rfl, fun _ hj => memGet_memWrite_add m a hj⟩

theorem memRead_memWrite_other {α : Type} (m : List (Nat × α)) {a b n : Nat} (vs : List α)
    (h : b + n ≤ a ∨ a + vs.length ≤ b) : memRead (memWrite m a vs) b n = memRead m b n :=
  memRead_congr fun j hj => sameOutside_memWrite m a vs (b + j) (by omega)

/-- R31: the bytes `p` hold a header and the first `k` token words of `tb` in the persisted form. -/
structure Persists (p : ByteMem) (tb : TokMem) (olen tcnt : BitVec 32) (k : Nat) : Prop where
  header : memRead p 0 8 = some (bytes32 olen ++ bytes32 tcnt)
  token : ∀ i, i < k → ∃ w, memGet tb i = some w ∧ memRead p (8 + 4 * i) 4 = some (bytes32 w)

theorem bytes32_injective {v w : BitVec 32} (h : bytes32 v = bytes32 w) : v = w := by
  rw [← be32_extract v, ← be32_extract w]
  simp only [bytes32, List.cons.injEq, and_true] at h
  obtain ⟨h0, h1, h2, h3⟩ := h
  rw [h0, h1, h2, h3]

section
variable {p p' : ByteMem} {tb tb' : TokMem} {olen olen' tcnt tcnt' : BitVec 32} {k : Nat}

/-- The bytes determine the token words. -/
theorem Persists.tokens_eq (h : Persists p tb olen tcnt k) (h' : Persists p tb' olen' tcnt' k) {i : Nat} (hi : i < k) :
    memGet tb' i = memGet tb i := by
  obtain ⟨w, hw, hbytes⟩ := h.token i hi
  obtain ⟨w', hw', hbytes'⟩ := h'.token i hi
  rw [hw, hw', bytes32_injective (Option.some.inj (hbytes'.symm.trans hbytes))]

/-- A read of several cells fixes each of them. -/
theorem memGet_eq_of_memRead {α : Type} {m m' : List (Nat × α)} {a n x : Nat} {vs : List α}
    (h : memRead m a n = some vs) (h' : memRead m' a n = some vs) (hlo : a ≤ x) (hhi : x < a + n) :
    memGet m x = memGet m' x := by
  obtain ⟨i, rfl⟩ := Nat.exists_eq_add_of_le hlo
  rw [((memRead_eq_some ..).mp h).2 i (by omega), ((memRead_eq_some ..).mp h').2 i (by omega)]

theorem ne_none_of_memRead {α : Type} {m : List (Nat × α)} {a n x : Nat} {vs : List α}
    (h : memRead m a n = some vs) (hlo : a ≤ x) (hhi : x < a + n) : memGet m x ≠ none := by
  obtain ⟨hlen, hcells⟩ := (memRead_eq_some ..).mp h
  obtain ⟨i, rfl⟩ := Nat.exists_eq_add_of_le hlo
  rw [hcells i (by omega), List.getElem?_eq_getElem (by omega)]
  exact Option.some_ne_none _

theorem Persists.holdsBelow (h : Persists p tb olen tcnt k) {a : Nat} (ha : a < 8 + 4 * k) : memGet p a ≠ none := by
  obtain hhead | htok := Nat.lt_or_ge a 8
  · exact ne_none_of_memRead h.header (Nat.zero_le a) (by omega)
  · obtain ⟨w, -, hbytes⟩ := h.token ((a - 8) / 4) (by omega)
    exact ne_none_of_memRead hbytes (by omega) (by omega)

/-- The stream determines the bytes. -/
theorem Persists.bytes_eq (h : Persists p tb olen tcnt k) (h' : Persists p' tb olen tcnt k) {a : Nat}
    (ha : a < 8 + 4 * k) : memGet p' a = memGet p a := by
  obtain hhead | htok := Nat.lt_or_ge a 8
  · exact memGet_eq_of_memRead h'.header h.header (Nat.zero_le a) (by omega)
  · obtain ⟨w, hw, hbytes⟩ := h.token ((a - 8) / 4) (by omega)
    obtain ⟨w', hw', hbytes'⟩ := h'.token ((a - 8) / 4) (by omega)
    cases hw.symm.trans hw'
    exact memGet_eq_of_memRead hbytes' hbytes (by omega) (by omega)

end

/-! ### The run of SERIALIZE -/

/-- What holds while SERIALIZE writes its tokens, from the state `v` it began them in, and at its end. -/
structure Serializing (v : State) (olen : BitVec 32) (u : State) : Prop where
  frame : u = { v with pbuf := u.pbuf, pbufPlen := u.pbufPlen, ser := u.ser, status := u.status }
  tcnt : u.ser.tcnt = v.ser.tcnt
  ti : u.ser.ti ≤ v.ser.tcnt
  persists : Persists u.pbuf v.tbuf olen (BitVec.ofNat 32 v.ser.tcnt) u.ser.ti
  ends : u.status = .busy ∨
    (u.status = .done ∧ u.ser.ti = v.ser.tcnt ∧ u.pbufPlen = some (8 + 4 * v.ser.tcnt))

theorem Persists.next_bytes {p : ByteMem} {tb : TokMem} {olen tcnt : BitVec 32} {i : Nat} {w : TokWord}
    (h : Persists p tb olen tcnt i) (hw : memGet tb i = some w) :
    Persists (memWrite p (8 + 4 * i) (bytes32 w)) tb olen tcnt (i + 1) := by
  refine ⟨?_, fun j hj => ?_⟩
  · rw [memRead_memWrite_other _ _ (.inl (by omega))]
    exact h.header
  · obtain hlt | rfl := Nat.lt_succ_iff_lt_or_eq.mp hj
    · obtain ⟨v, hv, hbytes⟩ := h.token j hlt
      refine ⟨v, hv, ?_⟩
      rw [memRead_memWrite_other _ _ (.inl (by omega))]
      exact hbytes
    · exact ⟨w, hw, memRead_memWrite_same p (8 + 4 * j) (bytes32 w)⟩

theorem Serializing.step {v : State} {olen : BitVec 32} (hc : commandOf v.cmd = .serialize) (hph : v.phase = .body)
    (hsrc : HoldsBelow v.tbuf v.ser.tcnt) (h : Serializing v olen u) (hb : u.status = .busy) :
    ∃ t, step u = .next t ∧ Serializing v olen t ∧
      (t.status = .busy → t.ser.tcnt - t.ser.ti < u.ser.tcnt - u.ser.ti) := by
  have hcmd : commandOf u.cmd = .serialize := by rw [h.frame]; exact hc
  have hphase : u.phase = .body := by rw [h.frame]; exact hph
  have htbuf : u.tbuf = v.tbuf := by rw [h.frame]
  have hrun : running .serialize u = true := (running_iff ..).mpr ⟨hb, hcmd⟩
  obtain hend | hti := le_or_gt u.ser.tcnt u.ser.ti
  · refine ⟨_, (step_running hrun).trans (serPass_finish hphase hend), ?_, fun hbt => by cases hbt⟩
    have hlast : u.ser.ti = v.ser.tcnt := by
      have := h.ti
      have := h.tcnt
      omega
    refine ⟨?_, h.tcnt, h.ti, h.persists, .inr ⟨rfl, hlast, ?_⟩⟩
    · rw [h.frame]
      rfl
    · rw [serFinish_pbufPlen, persistedSize_eq, h.tcnt]
  · obtain ⟨w, hw⟩ := Option.ne_none_iff_exists'.mp (hsrc u.ser.ti (h.tcnt ▸ hti))
    refine ⟨_, (step_running hrun).trans (serPass_token hphase hti (htbuf ▸ hw)), ?_, fun _ => ?_⟩
    · refine ⟨?_, h.tcnt, h.tcnt ▸ hti, h.persists.next_bytes hw, .inl hb⟩
      rw [h.frame]
    · show u.ser.tcnt - (u.ser.ti + 1) < u.ser.tcnt - u.ser.ti
      omega

/-- The state in which SERIALIZE, issued in `s`, makes its first pass (R161). -/
def serStarted (s : State) (tcnt : Nat) : State :=
  { start .serialize { s with host := [] } with ser := { ti := 0, tcnt := tcnt } }

/-- The state after that pass, the header written. -/
def serHeaded (s : State) (olen tcnt : Nat) : State :=
  { serStarted s tcnt with
    pbuf := memWrite [] 0 (bytes32 (BitVec.ofNat 32 olen) ++ bytes32 (BitVec.ofNat 32 tcnt)), phase := .body }

theorem serializing_serHeaded (s : State) (olen tcnt : Nat) :
    Serializing (serHeaded s olen tcnt) (BitVec.ofNat 32 olen) (serHeaded s olen tcnt) :=
  ⟨rfl, rfl, Nat.zero_le _, ⟨memRead_memWrite_same .., fun i hi => absurd hi (Nat.not_lt_zero i)⟩, .inl rfl⟩

/-- R110 to R114: SERIALIZE of a stream that is there ends DONE, the stream persisted. -/
theorem serialize_run {olen tcnt : Nat} (hb : s.status ≠ .busy) (ht : s.tbufTcnt = some tcnt)
    (ho : s.tbufOlen = some olen) (hsrc : HoldsBelow s.tbuf tcnt) :
    ∃ k u, runs k (issue .serialize s) = .next u ∧ u.host = [] ∧ u.status = .done ∧ u.cfg = s.cfg ∧
      u.pbufPlen = some (8 + 4 * tcnt) ∧
      Persists u.pbuf s.tbuf (BitVec.ofNat 32 olen) (BitVec.ofNat 32 tcnt) tcnt := by
  have hstart : step (issue .serialize s) = .next (serStarted s tcnt) := (step_issue hb).trans (serStart_next ho ht)
  have hheader : step (serStarted s tcnt) = .next (serHeaded s olen tcnt) :=
    (step_running (c := .serialize) rfl).trans (serPass_header (s := serStarted s tcnt) rfl ho)
  obtain ⟨k, u, -, hrun, hu, hnot⟩ :=
    runs_to_end (fun _ h hbu => Serializing.step rfl rfl hsrc h hbu) _ (serializing_serHeaded s olen tcnt)
  obtain ⟨hdone, hti, hplen⟩ := hu.ends.resolve_left hnot
  have hpersists := hu.persists
  rw [hti] at hpersists
  refine ⟨k + 1 + 1, u, (runs_next hstart).trans ((runs_next hheader).trans hrun), ?_, hdone, ?_, hplen, hpersists⟩
  · rw [hu.frame]
    rfl
  · rw [hu.frame]
    rfl

/-! ### The run of DESERIALIZE -/

/-- What holds while DESERIALIZE reads its tokens, from the state `v` it began them in, and at its end. -/
structure Deserializing (v : State) (u : State) : Prop where
  frame : u = { v with
    tbuf := u.tbuf, tbufTcnt := u.tbufTcnt, tbufOlen := u.tbufOlen, des := { v.des with ti := u.des.ti },
    status := u.status }
  ti : (u.des.ti : Int) ≤ v.des.tcnt.toInt
  persists : Persists v.pbuf u.tbuf v.des.olen v.des.tcnt u.des.ti
  ends : u.status = .busy ∨
    (u.status = .done ∧ (u.des.ti : Int) = v.des.tcnt.toInt ∧ u.tbufTcnt = some v.des.tcnt.toInt.toNat ∧
      u.tbufOlen = some v.des.olen.toInt.toNat)

theorem Persists.next_token {p : ByteMem} {tb : TokMem} {olen tcnt : BitVec 32} {i : Nat} {w : TokWord}
    (h : Persists p tb olen tcnt i) (hw : memRead p (8 + 4 * i) 4 = some (bytes32 w)) :
    Persists p (memSet tb i w) olen tcnt (i + 1) := by
  refine ⟨h.header, fun j hj => ?_⟩
  obtain hlt | rfl := Nat.lt_succ_iff_lt_or_eq.mp hj
  · rw [memGet_memSet_other _ _ (Nat.ne_of_lt hlt)]
    exact h.token j hlt
  · exact ⟨w, memGet_memSet_same .., hw⟩

theorem Deserializing.step {v : State} (hc : commandOf v.cmd = .deserialize) (hph : v.phase = .body)
    (hsrc : ∀ j : Nat, (j : Int) < 8 + 4 * v.des.tcnt.toInt → memGet v.pbuf j ≠ none) (h : Deserializing v u)
    (hb : u.status = .busy) :
    ∃ t, step u = .next t ∧ Deserializing v t ∧
      (t.status = .busy → v.des.tcnt.toInt.toNat - t.des.ti < v.des.tcnt.toInt.toNat - u.des.ti) := by
  have hcmd : commandOf u.cmd = .deserialize := by rw [h.frame]; exact hc
  have hphase : u.phase = .body := by rw [h.frame]; exact hph
  have hpbuf : u.pbuf = v.pbuf := by rw [h.frame]
  have hdes : u.des = { v.des with ti := u.des.ti } := congrArg State.des h.frame
  have htcnt : headerValue u.des.tcnt = v.des.tcnt.toInt := by rw [hdes, headerValue]
  have hrun : running .deserialize u = true := (running_iff ..).mpr ⟨hb, hcmd⟩
  obtain hend | hti := le_or_gt (headerValue u.des.tcnt) (u.des.ti : Int)
  · refine ⟨_, (step_running hrun).trans (desPass_finish hphase hend), ?_, fun hbt => by cases hbt⟩
    rw [htcnt] at hend
    refine ⟨?_, h.ti, h.persists, .inr ⟨rfl, Int.le_antisymm h.ti hend, ?_, ?_⟩⟩
    · rw [h.frame]
      rfl
    · rw [desFinish_tbufTcnt, htcnt]
    · rw [desFinish_tbufOlen, hdes, headerValue]
  · have hlt : (u.des.ti : Int) < v.des.tcnt.toInt := htcnt ▸ hti
    obtain ⟨b0, b1, b2, b3, hread⟩ := memRead_four (m := v.pbuf) (a := tokenOffset u.des.ti) fun j hj => by
      rw [tokenOffset_eq]
      exact hsrc _ (by omega)
    refine ⟨_, (step_running hrun).trans (desPass_token hphase hti (hpbuf ▸ hread)), ?_, fun _ => ?_⟩
    · refine ⟨?_, hlt, h.persists.next_token ?_, .inl hb⟩
      · rw [h.frame]
      · rw [bytes32_be32]
        exact hread
    · show v.des.tcnt.toInt.toNat - (u.des.ti + 1) < v.des.tcnt.toInt.toNat - u.des.ti
      omega

/-- The state in which DESERIALIZE, issued in `s`, makes its first pass (R161). -/
def desStarted (s : State) : State :=
  { start .deserialize { s with host := [] } with des := { s.des with ti := 0 } }

/-- The state after that pass, a valid header latched (R122). -/
def desHeaded (s : State) (olen tcnt : BitVec 32) : State :=
  { desStarted s with phase := .body, des := { ti := 0, olen := olen, tcnt := tcnt } }

theorem deserializing_desHeaded {olen tcnt : BitVec 32}
    (hread : memRead s.pbuf 0 8 = some (bytes32 olen ++ bytes32 tcnt)) (ht : 0 ≤ tcnt.toInt) :
    Deserializing (desHeaded s olen tcnt) (desHeaded s olen tcnt) :=
  ⟨rfl, ht, ⟨hread, fun i hi => absurd hi (Nat.not_lt_zero i)⟩, .inl rfl⟩

theorem step_issue_deserialize {plen : Nat} (hb : s.status ≠ .busy) (hp : s.pbufPlen = some plen) :
    step (issue .deserialize s) = .next (desStarted s) := (step_issue hb).trans (desStart_next hp)

/-- R120 to R124: DESERIALIZE of bytes whose header passes the checks ends DONE, with the stream they persist. -/
theorem deserialize_run {olen tcnt : BitVec 32} {plen : Nat} (hb : s.status ≠ .busy) (hp : s.pbufPlen = some plen)
    (hsrc : HoldsBelow s.pbuf plen) (hread : memRead s.pbuf 0 8 = some (bytes32 olen ++ bytes32 tcnt))
    (ho : 0 ≤ olen.toInt) (ho' : olen.toInt ≤ s.cfg.nMax) (ht : 0 ≤ tcnt.toInt) (ht' : tcnt.toInt ≤ s.cfg.nMax)
    (hsize : (plen : Int) = 8 + 4 * tcnt.toInt) :
    ∃ k u, runs k (issue .deserialize s) = .next u ∧ u.host = [] ∧ u.status = .done ∧
      u.tbufTcnt = some tcnt.toInt.toNat ∧ u.tbufOlen = some olen.toInt.toNat ∧
      Persists s.pbuf u.tbuf olen tcnt tcnt.toInt.toNat := by
  have hpass : desPass (desStarted s) = .next (desHeader plen olen tcnt (desStarted s)) := by
    have h := desPass_header (s := desStarted s) rfl hp (by omega) hread
    rwa [be32_extract, be32_extract] at h
  rw [desHeader_valid (s := desStarted s) ho ho' ht ht' hsize] at hpass
  have hheader : step (desStarted s) = .next (desHeaded s olen tcnt) :=
    (step_running (c := .deserialize) rfl).trans hpass
  have hcells : ∀ j : Nat, (j : Int) < 8 + 4 * tcnt.toInt → memGet s.pbuf j ≠ none := fun j hj => hsrc j (by omega)
  obtain ⟨k, u, -, hrun, hu, hnot⟩ :=
    runs_to_end (fun _ h hbu => Deserializing.step rfl rfl hcells h hbu) _ (deserializing_desHeaded hread ht)
  obtain ⟨hdone, hti, htcnt, holen⟩ := hu.ends.resolve_left hnot
  have hpersists := hu.persists
  rw [← Int.toNat_natCast u.des.ti, hti] at hpersists
  refine ⟨k + 1 + 1, u, (runs_next (step_issue_deserialize hb hp)).trans ((runs_next hheader).trans hrun), ?_, hdone,
    htcnt, holen, hpersists⟩
  rw [hu.frame]
  rfl

/-- R121: bytes that DESERIALIZE does not accept end its run in ERROR; of those it accepts the header is valid. -/
theorem deserialize_rejects_or_valid {plen : Nat} (hb : s.status ≠ .busy) (hp : s.pbufPlen = some plen)
    (hsrc : HoldsBelow s.pbuf plen) :
    (∃ k u, runs k (issue .deserialize s) = .next u ∧ u.host = [] ∧ u.status = .error) ∨
    ∃ olen tcnt : BitVec 32, memRead s.pbuf 0 8 = some (bytes32 olen ++ bytes32 tcnt) ∧
      (0 ≤ olen.toInt ∧ olen.toInt ≤ s.cfg.nMax) ∧ (0 ≤ tcnt.toInt ∧ tcnt.toInt ≤ s.cfg.nMax) ∧
      (plen : Int) = 8 + 4 * tcnt.toInt := by
  have hraise : ∀ {check v}, v.host = [] → desPass (desStarted s) = .next (raise .deserialize .format check v) →
      ∃ k u, runs k (issue .deserialize s) = .next u ∧ u.host = [] ∧ u.status = .error := fun hh hpass =>
    ⟨2, _, runs_two (step_issue_deserialize hb hp) ((step_running (c := .deserialize) rfl).trans hpass),
      (raise_host ..).trans hh, raise_status ..⟩
  obtain hshort | hlong := Nat.lt_or_ge plen 8
  · exact .inl (hraise rfl (desPass_short (s := desStarted s) rfl hp hshort))
  obtain ⟨b0, b1, b2, b3, b4, b5, b6, b7, hread⟩ := memRead_eight (m := s.pbuf) fun j hj => hsrc j (by omega)
  have hpass := desPass_header (s := desStarted s) rfl hp hlong hread
  obtain ⟨-, hd⟩ | ⟨-, -, hd⟩ | ⟨-, -, -, hd⟩ | ⟨ho, ht, hsize, -⟩ :=
    desHeader_cases plen (be32 b0 b1 b2 b3) (be32 b4 b5 b6 b7) (desStarted s)
  · exact .inl (hraise rfl (hd ▸ hpass))
  · exact .inl (hraise rfl (hd ▸ hpass))
  · exact .inl (hraise rfl (hd ▸ hpass))
  · have ht' := (headerInRange_iff ..).mp ht
    refine .inr ⟨_, _, ?_, (headerInRange_iff ..).mp ho, ht', (eq_persistedSize_iff ht'.1 plen).mp hsize⟩
    rw [bytes32_be32, bytes32_be32]
    exact hread

/-! ### The round trips (R125) -/

/-- A value in the range of a header field is read back as it was written. -/
theorem toInt_ofNat32 {v : Nat} (hv : v ≤ 2147483647) : (BitVec.ofNat 32 v).toInt = v := by
  rw [BitVec.toInt_eq_toNat_cond, BitVec.toNat_ofNat]
  split <;> omega

theorem ofNat32_toInt {v : BitVec 32} (hv : 0 ≤ v.toInt) : BitVec.ofNat 32 v.toInt.toNat = v := by
  apply BitVec.eq_of_toNat_eq
  rw [BitVec.toInt_eq_toNat_cond] at hv ⊢
  rw [BitVec.toNat_ofNat]
  have := v.isLt
  split at hv <;> omega

theorem not_busy_of_done (h : s.status = .done) : s.status ≠ .busy := by
  rw [h]
  decide

/-- Settles O55: the bytes SERIALIZE made persist the stream, and the stream DESERIALIZE makes is persisted by them. -/
theorem serializeThenDeserializeIsIdentity : Obligations.SerializeThenDeserializeIsIdentity := by
  intro s tcnt olen hb ht ho htn hon hmax hsrc
  obtain ⟨j, t, hrun, hhost, hdone, hcfg, hplen, hpersists⟩ := serialize_run hb ht ho hsrc
  have hto : (BitVec.ofNat 32 olen).toInt = olen := toInt_ofNat32 (by omega)
  have htt : (BitVec.ofNat 32 tcnt).toInt = tcnt := toInt_ofNat32 (by omega)
  have hcells : HoldsBelow t.pbuf (8 + 4 * tcnt) := fun a ha => hpersists.holdsBelow ha
  rw [← hcfg] at htn hon
  obtain ⟨k, u, hrun', hhost', hdone', htcnt, holen, hpersists'⟩ :=
    deserialize_run (not_busy_of_done hdone) hplen hcells hpersists.header (by omega) (by omega) (by omega) (by omega)
      (by omega)
  rw [htt, Int.toNat_natCast] at htcnt hpersists'
  rw [hto, Int.toNat_natCast] at holen
  exact ⟨j, t, k, u, hrun, hhost, hdone, hrun', hhost', hdone', htcnt, holen, fun a ha =>
    hpersists.tokens_eq hpersists' ha⟩

/-- Settles O56: a run of DESERIALIZE that ended DONE is the one of a valid header, whose stream SERIALIZE persists. -/
theorem deserializeThenSerializeIsIdentity : Obligations.DeserializeThenSerializeIsIdentity := by
  intro s t plen j hb hp hsrc hrun hdone hhost
  obtain ⟨k, u, hrun', hhost', herr⟩ | ⟨olen, tcnt, hread, ⟨ho, ho'⟩, ⟨ht, ht'⟩, hsize⟩ :=
    deserialize_rejects_or_valid hb hp hsrc
  · cases runs_end_unique hrun (not_busy_of_done hdone) hhost hrun' (by rw [herr]; decide) hhost'
    cases hdone.symm.trans herr
  · obtain ⟨k, u, hrun', hhost', hdone', htcnt, holen, hpersists⟩ := deserialize_run hb hp hsrc hread ho ho' ht ht' hsize
    cases runs_end_unique hrun (not_busy_of_done hdone) hhost hrun' (not_busy_of_done hdone') hhost'
    have hcells : HoldsBelow t.tbuf tcnt.toInt.toNat := fun i hi => by
      obtain ⟨w, hw, -⟩ := hpersists.token i hi
      rw [hw]
      exact Option.some_ne_none w
    obtain ⟨k', v, hrunv, hhostv, hdonev, -, hplen, hpersists'⟩ :=
      serialize_run (not_busy_of_done hdone) htcnt holen hcells
    rw [ofNat32_toInt ho, ofNat32_toInt ht] at hpersists'
    have hsize' : 8 + 4 * tcnt.toInt.toNat = plen := by omega
    rw [hsize'] at hplen
    exact ⟨k', v, hrunv, hhostv, hdonev, hplen, fun a ha => hpersists.bytes_eq hpersists' (hsize'.symm ▸ ha)⟩

end Sys2Proof.Machine
end

section
/-! PROOFS. The run of ENCODE: it ends, and if it ends DONE its tokens describe the input from the first byte to the last
(R79 to R82, R88). -/

namespace Sys2Proof.Machine

variable {s t u : State}

/-! ### Where a token starts (R88) -/

theorem tokenStart_congr {m m' : TokMem} {i : Nat} (h : ∀ j, j < i → memGet m j = memGet m' j) :
    tokenStart m i = tokenStart m' i := by
  induction i with
  | zero => rfl
  | succ i ih => rw [tokenStart, tokenStart, h i (Nat.lt_succ_self i), ih fun j hj => h j (Nat.lt_succ_of_lt hj)]

theorem tokenStart_succ {m : TokMem} {i : Nat} {w : TokWord} (hw : memGet m i = some w) :
    tokenStart m (i + 1) = tokenStart m i + (lenField w).toNat + 1 := by
  rw [tokenStart, hw]

/-- The first `k` tokens of `tb` describe the input of `n` bytes in `m`, each where it starts. -/
def Encodes (m : ByteMem) (n : Nat) (tb : TokMem) (k : Nat) : Prop :=
  ∀ i, i < k → ∃ w, memGet tb i = some w ∧ tokenStart tb i < n ∧
    (LiteralAt m (tokenStart tb i) w ∨ MatchAt m n (tokenStart tb i) w)

theorem Encodes.next {m : ByteMem} {n k : Nat} {tb tb' : TokMem} {w : TokWord} (h : Encodes m n tb k)
    (hw : memGet tb' k = some w) (hother : SameOutside tb tb' k (k + 1)) (hn : tokenStart tb k < n)
    (hdesc : LiteralAt m (tokenStart tb k) w ∨ MatchAt m n (tokenStart tb k) w) :
    tokenStart tb' (k + 1) = tokenStart tb k + (lenField w).toNat + 1 ∧ Encodes m n tb' (k + 1) := by
  have hstart : ∀ i, i ≤ k → tokenStart tb' i = tokenStart tb i := fun i hi =>
    tokenStart_congr fun j hj => hother j (.inl (by omega))
  refine ⟨by rw [tokenStart_succ hw, hstart k (Nat.le_refl k)], fun i hi => ?_⟩
  obtain hlt | rfl := Nat.lt_succ_iff_lt_or_eq.mp hi
  · rw [hstart i hlt.le, hother i (.inl hlt)]
    exact h i hlt
  · rw [hstart i (Nat.le_refl i)]
    exact ⟨w, hw, hn, hdesc⟩

/-! ### The run of ENCODE -/

/-- What holds of ENCODE's run from the state `v` of its first pass on. -/
structure Encoding (v u : State) : Prop where
  frame : u = { v with
    tbuf := u.tbuf, tbufTcnt := u.tbufTcnt, tbufOlen := u.tbufOlen, enc := u.enc,
    status := u.status, cause := u.cause, info := u.info }
  ends : (u.status = .error ∧ u.cause = .incompressible) ∨
    ((u.status = .busy ∨ (u.status = .done ∧ v.enc.n ≤ u.enc.p ∧ u.tbufTcnt = some u.enc.cnt ∧
        u.tbufOlen = some v.enc.n)) ∧
      u.enc.n = v.enc.n ∧ tokenStart u.tbuf u.enc.cnt = u.enc.p ∧ Encodes v.ibuf v.enc.n u.tbuf u.enc.cnt)

theorem Encoding.step {v : State} (hc : commandOf v.cmd = .encode) (hsrc : HoldsBelow v.ibuf v.enc.n)
    (h : Encoding v u) (hb : u.status = .busy) :
    ∃ t, step u = .next t ∧ Encoding v t ∧ (t.status = .busy → t.enc.n - t.enc.p < u.enc.n - u.enc.p) := by
  have hcmd : commandOf u.cmd = .encode := by rw [h.frame]; exact hc
  have hibuf : u.ibuf = v.ibuf := by rw [h.frame]
  have hrun : running .encode u = true := (running_iff ..).mpr ⟨hb, hcmd⟩
  obtain ⟨herr, -⟩ | ⟨-, hn, hstart, henc⟩ := h.ends
  · cases hb.symm.trans herr
  obtain hend | hp := le_or_gt u.enc.n u.enc.p
  · refine ⟨_, (step_running hrun).trans (encPass_finish hend), ⟨?_, ?_⟩, fun hbt => by cases hbt⟩
    · rw [h.frame]
      rfl
    · exact .inr ⟨.inr ⟨rfl, hn ▸ hend, rfl, congrArg some hn⟩, hn, hstart, henc⟩
  by_cases hg : guardFires u.cfg u.enc.cnt u.enc.n = true
  · refine ⟨_, (step_running hrun).trans (encPass_guard hp hg), ⟨?_, .inl ⟨rfl, rfl⟩⟩, fun hbt => by cases hbt⟩
    rw [h.frame]
    rfl
  rw [Bool.not_eq_true] at hg
  obtain ⟨inp, hi⟩ := memRead_isSome u.ibuf 0 u.enc.n fun j hj => by
    rw [Nat.zero_add, hibuf]
    exact hsrc j (hn ▸ hj)
  obtain ⟨t, w, hexec, he⟩ := encode_emits hrun hp ((guardFires_false_iff ..).mp hg) hi
  rw [← hstart] at hp
  have hdesc := he.describes
  rw [hibuf, hn, ← hstart] at hdesc
  obtain ⟨hstart', henc'⟩ := henc.next he.cell he.others (hn ▸ hp) hdesc
  have hbt : t.status = .busy := by
    rw [he.frame]
    exact hb
  refine ⟨t, (step_eq_exec hrun).trans hexec, ⟨?_, .inr ⟨.inl hbt, he.n.trans hn, ?_, ?_⟩⟩, fun _ => ?_⟩
  · rw [he.frame, h.frame]
  · rw [he.cnt, hstart', he.p, hstart]
  · rw [he.cnt]
    exact henc'
  · rw [he.n, he.p]
    omega

/-- The state in which ENCODE, issued in `s`, makes its first pass (R71). -/
def encStarted (s : State) (n : Nat) : State :=
  { start .encode { s with host := [] } with enc := { s.enc with n := n, p := 0, cnt := 0 } }

theorem encoding_encStarted (s : State) (n : Nat) : Encoding (encStarted s n) (encStarted s n) :=
  ⟨rfl, .inr ⟨.inl rfl, rfl, rfl, fun i hi => absurd hi (Nat.not_lt_zero i)⟩⟩

/-- What ENCODE of the input of `n` bytes in `s` leaves at its end DONE. -/
structure Encoded (s : State) (n : Nat) (t : State) (cnt : Nat) : Prop where
  cfg : t.cfg = s.cfg
  ibuf : t.ibuf = s.ibuf
  tcnt : t.tbufTcnt = some cnt
  olen : t.tbufOlen = some n
  tokens : Encodes s.ibuf n t.tbuf cnt
  covered : n ≤ tokenStart t.tbuf cnt

theorem encode_run {n : Nat} (hb : s.status ≠ .busy) (hn : s.ibufN = some n) (hle : n ≤ s.cfg.nMax)
    (hsrc : HoldsBelow s.ibuf n) :
    ∃ j t, runs j (issue .encode s) = .next t ∧ t.host = [] ∧
      ((t.status = .error ∧ t.cause = .incompressible) ∨ (t.status = .done ∧ ∃ cnt, Encoded s n t cnt)) := by
  have hstart : step (issue .encode s) = .next (encStarted s n) := (step_issue hb).trans (encStart_next hn hle)
  obtain ⟨k, t, -, hrun, ht, hnot⟩ :=
    runs_to_end (fun _ h hbu => Encoding.step rfl hsrc h hbu) _ (encoding_encStarted s n)
  refine ⟨k + 1, t, (runs_next hstart).trans hrun, ?_, ?_⟩
  · rw [ht.frame]
    rfl
  · obtain herr | ⟨hbusy | ⟨hdone, hp, htcnt, holen⟩, -, hstart', henc⟩ := ht.ends
    · exact .inl herr
    · exact absurd hbusy hnot
    · refine .inr ⟨hdone, t.enc.cnt, ⟨?_, ?_, htcnt, holen, henc, hstart'.symm ▸ hp⟩⟩
      · rw [ht.frame]
        rfl
      · rw [ht.frame]
        rfl

end Sys2Proof.Machine
end

section
/-! PROOFS. The run of DECODE on a stream that describes the input in IBUF, and the round trip of ENCODE and DECODE (R99,
R100). -/

namespace Sys2Proof.Machine

variable {s t u v : State} {i : Nat}

/-! ### Lossy zeros and trailing bytes (R96, R97, R99) -/

theorem trailingAppended_iff {b : Byte} {c : Nat} :
    TrailingAppended b c s ↔ (s.cfg.zeroPolicy = .fixed ∨ b ≠ 0) ∧ c < s.dec.olen := by
  rw [TrailingAppended]
  cases s.cfg.zeroPolicy <;> simp

theorem lossyAt_iff {w : TokWord} {n : Nat} (hw : memGet s.tbuf i = some w) (hn : s.tbufOlen = some n) :
    lossyAt s i = true ↔ distField w ≠ 0 ∧ tokenStart s.tbuf i + (lenField w).toNat < n ∧
      memGet s.ibuf (tokenStart s.tbuf i + (lenField w).toNat) = some 0 := by
  simp only [lossyAt, hw, hn, Option.getD_some, decide_eq_true_iff]

/-! ### Tokens that describe the input -/

/-- DECODE runs in `v` on a stream that describes the input in IBUF from the first byte to the last. -/
structure Described (v : State) : Prop where
  running : running .decode v = true
  olen : v.tbufOlen = some v.dec.olen
  tcnt : v.tbufTcnt = some v.dec.tcnt
  tokens : Encodes v.ibuf v.dec.olen v.tbuf v.dec.tcnt
  covered : v.dec.olen ≤ tokenStart v.tbuf v.dec.tcnt

/-- `u` is a state of the run of DECODE from `v`, standing at token `i`. -/
structure AtToken (v : State) (i : Nat) (u : State) : Prop where
  frame : u = { v with obuf := u.obuf, dec := u.dec }
  ti : u.dec.ti = i
  tcnt : u.dec.tcnt = v.dec.tcnt
  olen : u.dec.olen = v.dec.olen
  cells : HoldsExactly u.obuf u.dec.cur

theorem LiteralAt.toNat_dist {m : ByteMem} {p : Nat} {w : TokWord} (h : LiteralAt m p w) :
    (distField w).toNat = 0 := by
  rw [h.dist]
  rfl

theorem LiteralAt.toNat_len {m : ByteMem} {p : Nat} {w : TokWord} (h : LiteralAt m p w) : (lenField w).toNat = 0 := by
  rw [h.len]
  rfl

theorem MatchAt.legal {m : ByteMem} {n p : Nat} {w : TokWord} (h : MatchAt m n p w) :
    (distField w).toInt = (distField w).toNat ∧ distField w ≠ 0 ∧
      ¬ ((distField w).toInt < 0 ∨ 8192 < (distField w).toInt) := by
  have hleast := h.least
  have hapart := h.apart
  have hwindow := h.window
  have hsigned := toInt_dist (distField w)
  rw [if_pos (by omega)] at hsigned
  refine ⟨hsigned, fun h0 => ?_, by omega⟩
  have hzero : (distField w).toNat = 0 := by rw [h0]; rfl
  omega

/-- What the token word `w`, which describes the input at `p`, makes of a state of DECODE that stands at it. -/
inductive TokenRuns (v : State) (i : Nat) (w : TokWord) (u t : State) : Prop
  | literal (desc : LiteralAt v.ibuf (tokenStart v.tbuf i) w) (eff : LitEffect (lenField w) (byteField w) u t)
  | copy (desc : MatchAt v.ibuf v.dec.olen (tokenStart v.tbuf i) w) (within : (distField w).toNat ≤ u.dec.cur)
    (eff : MatchEffect (distField w) (lenField w) (byteField w) u t)

theorem TokenRuns.frame {w : TokWord} (h : TokenRuns v i w u t) :
    t = { u with obuf := t.obuf, dec := t.dec } ∧ t.dec.ti = u.dec.ti + 1 ∧ t.dec.tcnt = u.dec.tcnt ∧
      t.dec.olen = u.dec.olen := by
  cases h with
  | literal _ eff =>
    obtain ⟨heq, -⟩ := eff
    rw [heq]
    exact ⟨rfl, rfl, rfl, rfl⟩
  | copy _ _ eff =>
    obtain ⟨heq, -⟩ := eff
    rw [heq]
    exact ⟨rfl, rfl, rfl, rfl⟩

theorem AtToken.running (hv : Described v) (h : AtToken v i u) : running .decode u = true := by
  rw [h.frame]
  exact hv.running

/-- R93 to R97: a token that describes the input runs, or its distance passes the start of the output. -/
theorem AtToken.tokWordRun (h : AtToken v i u) {w : TokWord} (hstart : tokenStart v.tbuf i < v.dec.olen)
    (hcur : u.dec.cur ≤ tokenStart v.tbuf i)
    (hdesc : LiteralAt v.ibuf (tokenStart v.tbuf i) w ∨ MatchAt v.ibuf v.dec.olen (tokenStart v.tbuf i) w) :
    ∃ t, tokWordRun w u = .next t ∧
      (TokenRuns v i w u t ∨
        (u.dec.cur < (distField w).toNat ∧ t.host = u.host ∧ t.status = .error ∧ t.cause = .refBeforeStart)) := by
  have holen := h.olen
  obtain hlit | hmatch := hdesc
  · obtain ⟨t, hrun, heff⟩ := tokLit_appends (s := u) (lenField w) (byteField w) (by omega)
    exact ⟨t, (tokWordRun_literal hlit.dist).trans hrun, .inl (.literal hlit heff)⟩
  · obtain ⟨hint, h0, hlegal⟩ := hmatch.legal
    have hfits := hmatch.fits
    rw [tokWordRun_match hlegal h0]
    obtain hwithin | hbefore := le_or_gt (distField w).toNat u.dec.cur
    · have hsrc : MatchSourceReady (distField w) u := matchSourceReady h.cells.below hlegal h0 (by omega)
      obtain ⟨t, hrun, heff⟩ := tokMatch_fits (byteField w) (l := lenField w) hsrc (by omega)
      exact ⟨t, hrun, .inl (.copy hmatch hwithin heff)⟩
    · exact ⟨_, tokMatch_beforeStart _ (by omega), .inr ⟨hbefore, rfl, rfl, rfl⟩⟩

theorem AtToken.next {w : TokWord} (h : AtToken v i u) (hrun : Machine.tokWordRun w u = .next t)
    (hr : TokenRuns v i w u t) (hb : v.status = .busy) : AtToken v (i + 1) t := by
  obtain ⟨hframe, hti, htcnt, holen⟩ := hr.frame
  have hbusy : t.status = .busy := by
    rw [hframe, h.frame]
    exact hb
  refine ⟨?_, hti.trans (congrArg (· + 1) h.ti), htcnt.trans h.tcnt, holen.trans h.olen, ?_⟩
  · rw [hframe, h.frame]
  · obtain ⟨herr, -⟩ | hw := tokWordRun_writtenFrom hrun
    · cases hbusy.symm.trans herr
    · exact hw.holdsExactly h.cells

/-- A step of DECODE on a token that describes the input. -/
theorem AtToken.step (hv : Described v) (h : AtToken v i u) (hi : i < v.dec.tcnt)
    (hcur : u.dec.cur ≤ tokenStart v.tbuf i) :
    ∃ w t, memGet v.tbuf i = some w ∧ tokenStart v.tbuf i < v.dec.olen ∧ Machine.step u = .next t ∧
      ((AtToken v (i + 1) t ∧ TokenRuns v i w u t) ∨
        (u.dec.cur < (distField w).toNat ∧ MatchAt v.ibuf v.dec.olen (tokenStart v.tbuf i) w ∧
          t.host = v.host ∧ t.status = .error ∧ t.cause = .refBeforeStart)) := by
  obtain ⟨w, hw, hstart, hdesc⟩ := hv.tokens i hi
  obtain ⟨t, hrun, hr⟩ := h.tokWordRun hstart hcur hdesc
  have hcell : memGet u.tbuf u.dec.ti = some w := by
    rw [h.ti, h.frame]
    exact hw
  have hstep : Machine.step u = .next t :=
    (step_token (h.running hv) (by rw [h.ti, h.tcnt]; exact hi) hcell).trans hrun
  refine ⟨w, t, hw, hstart, hstep, ?_⟩
  obtain hr | ⟨hbefore, hhost, herr⟩ := hr
  · exact .inl ⟨h.next hrun hr ((running_iff ..).mp hv.running).1, hr⟩
  · obtain hlit | hmatch := hdesc
    · rw [hlit.toNat_dist] at hbefore
      exact absurd hbefore (Nat.not_lt_zero _)
    · refine .inr ⟨hbefore, hmatch, hhost.trans ?_, herr⟩
      rw [h.frame]

theorem AtToken.finish (hv : Described v) (h : AtToken v v.dec.tcnt u) : Machine.step u = .next (decFinish u) :=
  (step_running (h.running hv)).trans (decPass_finish (by rw [h.ti, h.tcnt]))

/-- What holds at token 0, and goes from each token to the next unless the run ends, holds at the end of the stream
unless the run ended before. -/
theorem runs_through {P : Nat → State → Prop} {Ended : State → Prop} {n : Nat} (h0 : P 0 v)
    (hstep : ∀ i u, i < n → P i u → ∃ t, step u = .next t ∧ (P (i + 1) t ∨ Ended t)) :
    ∃ k u, runs k v = .next u ∧ (P n u ∨ Ended u) := by
  induction n with
  | zero => exact ⟨0, v, rfl, .inl h0⟩
  | succ n ih =>
    obtain ⟨k, u, hrun, hP | hE⟩ := ih fun i u hi => hstep i u (Nat.lt_succ_of_lt hi)
    · obtain ⟨t, hst, ht⟩ := hstep n u (Nat.lt_succ_self n) hP
      exact ⟨k + 1, t, (runs_add hrun).trans (runs_next hst), ht⟩
    · exact ⟨k, u, hrun, .inr hE⟩

/-! ### The start -/

/-- The state in which DECODE, issued in `s`, makes its first pass (R91). -/
def decStarted (s : State) (olen tcnt : Nat) : State :=
  { start .decode { s with host := [] } with dec := { s.dec with olen := olen, tcnt := tcnt, ti := 0, cur := 0 } }

theorem step_issue_decode {olen tcnt : Nat} (hb : s.status ≠ .busy) (ho : s.tbufOlen = some olen)
    (ht : s.tbufTcnt = some tcnt) : step (issue .decode s) = .next (decStarted s olen tcnt) :=
  (step_issue hb).trans (decStart_next ho ht)

theorem atToken_decStarted (s : State) (olen tcnt : Nat) :
    AtToken (decStarted s olen tcnt) 0 (decStarted s olen tcnt) := ⟨rfl, rfl, rfl, rfl, holdsExactly_nil⟩

theorem Encoded.described {n cnt : Nat} (h : Encoded s n t cnt) : Described (decStarted t n cnt) :=
  ⟨rfl, h.olen, h.tcnt, h.ibuf.symm ▸ h.tokens, h.covered⟩

/-- With the last token run, DECODE completes. -/
theorem Encoded.runs_finish {n cnt k : Nat} (henc : Encoded s n t cnt) (hb : t.status ≠ .busy)
    (hrun : runs k (decStarted t n cnt) = .next u) (hat : AtToken (decStarted t n cnt) cnt u) :
    runs (k + 1 + 1) (issue .decode t) = .next (decFinish u) := by
  rw [runs_next (step_issue_decode hb henc.olen henc.tcnt), runs_add hrun]
  exact runs_next (hat.finish henc.described)

/-! ### What the tokens make again (R99) -/

/-- The output is the input, as far as the tokens before `i` describe it. -/
structure Restores (v : State) (i : Nat) (u : State) : Prop where
  atToken : AtToken v i u
  cur : u.dec.cur = min (tokenStart v.tbuf i) v.dec.olen
  bytes : ∀ a, a < u.dec.cur → memGet u.obuf a = memGet v.ibuf a

theorem LitEffect.restores {m : ByteMem} {w : TokWord} {l : Byte} (h : LitEffect l (byteField w) u t)
    (hdesc : LiteralAt m u.dec.cur w) (hbytes : ∀ a, a < u.dec.cur → memGet u.obuf a = memGet m a) :
    t.dec.cur = u.dec.cur + 1 ∧ ∀ a, a < t.dec.cur → memGet t.obuf a = memGet m a := by
  obtain ⟨heq, hnew, hold⟩ := h
  have hcur : t.dec.cur = u.dec.cur + 1 := (congrArg (·.dec.cur) heq :)
  refine ⟨hcur, fun a ha => ?_⟩
  rw [hcur] at ha
  obtain hlt | rfl := Nat.lt_succ_iff_lt_or_eq.mp ha
  · exact (hold a (.inl hlt)).trans (hbytes a hlt)
  · exact hnew.trans hdesc.byte.symm

/-- The bytes a MATCH copies are the input's, because the source lies below the cursor. -/
theorem MatchEffect.copies {m : ByteMem} {w : TokWord} {n : Nat}
    (h : MatchEffect (distField w) (lenField w) (byteField w) u t) (hdesc : MatchAt m n u.dec.cur w)
    (hbytes : ∀ a, a < u.dec.cur → memGet u.obuf a = memGet m a) :
    ∀ a, a < u.dec.cur + (lenField w).toNat → memGet t.obuf a = memGet m a := by
  obtain ⟨-, hcopy, -, -, hold⟩ := h
  have hbelow : ∀ a, a < u.dec.cur → memGet t.obuf a = memGet m a := fun a ha =>
    (hold a (.inl ha)).trans (hbytes a ha)
  intro a ha
  obtain hlt | hge := Nat.lt_or_ge a u.dec.cur
  · exact hbelow a hlt
  · obtain ⟨j, rfl⟩ := Nat.exists_eq_add_of_le hge
    have hj : j < (lenField w).toNat := by omega
    have hinside := hdesc.inside
    have hapart := hdesc.apart
    rw [(hcopy j hj).2, hbelow _ (by omega), hdesc.agree j hj]

/-- R96, R97: the trailing byte follows exactly where the input goes on, unless it is a lossy zero. -/
theorem MatchEffect.restores {m : ByteMem} {w : TokWord} {n : Nat}
    (h : MatchEffect (distField w) (lenField w) (byteField w) u t) (hdesc : MatchAt m n u.dec.cur w)
    (holen : u.dec.olen = n) (hbytes : ∀ a, a < u.dec.cur → memGet u.obuf a = memGet m a)
    (hkeeps : u.dec.cur + (lenField w).toNat < n → u.cfg.zeroPolicy = .fixed ∨ byteField w ≠ 0) :
    t.dec.cur = min (u.dec.cur + (lenField w).toNat + 1) n ∧ ∀ a, a < t.dec.cur → memGet t.obuf a = memGet m a := by
  have hcopied := h.copies hdesc hbytes
  obtain ⟨-, -, hyes, hno, -⟩ := h
  obtain hmore | hend := Nat.lt_or_ge (u.dec.cur + (lenField w).toNat) n
  · obtain ⟨hcur, hlast⟩ := hyes (trailingAppended_iff.mpr ⟨hkeeps hmore, holen ▸ hmore⟩)
    refine ⟨by omega, fun a ha => ?_⟩
    rw [hcur] at ha
    obtain hlt | rfl := Nat.lt_succ_iff_lt_or_eq.mp ha
    · exact hcopied a hlt
    · exact hlast.trans (hdesc.byte hmore).symm
  · have hcur := hno fun happ => absurd (trailingAppended_iff.mp happ).2 (by omega)
    have hfits := hdesc.fits
    exact ⟨by omega, fun a ha => hcopied a (hcur ▸ ha)⟩

theorem Restores.step (hv : Described v) (hkeeps : v.cfg.zeroPolicy = .fixed ∨ ¬ LossyZero v) (h : Restores v i u)
    (hi : i < v.dec.tcnt) :
    ∃ t, Machine.step u = .next t ∧ Restores v (i + 1) t := by
  obtain ⟨hat, hcur, hbytes⟩ := h
  obtain ⟨w, t, hw, hstart, hstep, ⟨hat', hr⟩ | ⟨hbefore, hmatch, -⟩⟩ := hat.step hv hi (by omega)
  case inr =>
    have := hmatch.inside
    omega
  have hhere : u.dec.cur = tokenStart v.tbuf i := by omega
  have hstart' := tokenStart_succ hw
  refine ⟨t, hstep, ?_⟩
  cases hr with
  | literal hdesc heff =>
    obtain ⟨hcur', hbytes'⟩ := heff.restores (hhere ▸ hdesc) hbytes
    rw [hdesc.toNat_len] at hstart'
    exact ⟨hat', by omega, hbytes'⟩
  | copy hdesc _ heff =>
    obtain ⟨hcur', hbytes'⟩ := heff.restores (hhere ▸ hdesc) hat.olen hbytes fun hmore => by
      rw [hat.frame]
      refine hkeeps.imp_right fun hlossless h0 => hlossless ⟨i, ?_, (lossyAt_iff hw hv.olen).mpr ⟨?_, ?_, ?_⟩⟩
      · rw [hv.tcnt]
        exact hi
      · exact hdesc.legal.2.1
      · exact hhere ▸ hmore
      · exact h0 ▸ hdesc.byte (hhere ▸ hmore)
    exact ⟨hat', by rw [hcur', hstart', hhere], hbytes'⟩

/-- R99: where no zero is lost, DECODE of the encoding makes the input again. -/
theorem decode_restores {n cnt : Nat} (hb : t.status ≠ .busy) (henc : Encoded s n t cnt)
    (hkeeps : t.cfg.zeroPolicy = .fixed ∨ ¬ LossyZero t) :
    ∃ k u, runs k (issue .decode t) = .next u ∧ u.host = [] ∧ u.status = .done ∧ u.lenmis = false ∧
      u.obufLen = some n ∧ ∀ a, a < n → memGet u.obuf a = memGet s.ibuf a := by
  have hv := henc.described
  have hstart : Restores (decStarted t n cnt) 0 (decStarted t n cnt) :=
    ⟨atToken_decStarted t n cnt, (Nat.zero_min n).symm, fun a ha => absurd ha (Nat.not_lt_zero a)⟩
  obtain ⟨k, u, hrun, ⟨hat, hcur, hbytes⟩ | hfalse⟩ :=
    runs_through (Ended := fun _ => False) (n := cnt) hstart fun i u hi h =>
      (h.step hv hkeeps hi).imp fun _ => And.imp_right .inl
  case inr => exact hfalse.elim
  have hend : u.dec.cur = n := hcur.trans (Nat.min_eq_right henc.covered)
  have hlen : lengthMismatch u.dec.cur u.dec.olen = false := by
    rw [hend, hat.olen]
    exact decide_eq_false (not_not_intro rfl)
  refine ⟨k + 1 + 1, decFinish u, ?_, ?_, rfl, hlen, congrArg some hend, fun a ha => ?_⟩
  · exact henc.runs_finish hb hrun hat
  · exact (congrArg State.host hat.frame :)
  · exact (hbytes a (hend ▸ ha)).trans (congrArg (memGet · a) henc.ibuf)

/-- Settles O57: ENCODE's tokens describe the input, and each restores what it describes. -/
theorem encodeThenDecodeIsIdentity : Obligations.EncodeThenDecodeIsIdentity := by
  intro s n hb hn hle hsrc
  obtain ⟨j, t, hrun, hhost, herr | ⟨hdone, cnt, henc⟩⟩ := encode_run hb hn hle hsrc
  · exact ⟨j, t, hrun, hhost, .inl herr⟩
  · refine ⟨j, t, hrun, hhost, .inr ⟨hdone, fun hkeeps => ?_⟩⟩
    rw [← henc.cfg] at hkeeps
    exact decode_restores (not_busy_of_done hdone) henc hkeeps

/-! ### What a lost zero leaves (R100) -/

/-- The output is no longer than what the tokens before `i` describe, and shorter if one of them lost its zero. -/
structure Lags (v : State) (i : Nat) (u : State) : Prop where
  atToken : AtToken v i u
  cur : u.dec.cur ≤ min (tokenStart v.tbuf i) v.dec.olen
  short : ∀ j, j < i → lossyAt v j = true → u.dec.cur < min (tokenStart v.tbuf i) v.dec.olen

/-- Under `faithful` a MATCH adds a byte after its copy only if the byte is not 0 and there is room. -/
theorem MatchEffect.cur_le {d : Dist} {l b : Byte} (h : MatchEffect d l b u t) (hpol : u.cfg.zeroPolicy = .faithful) :
    t.dec.cur = u.dec.cur + l.toNat ∨
      (t.dec.cur = u.dec.cur + l.toNat + 1 ∧ b ≠ 0 ∧ u.dec.cur + l.toNat < u.dec.olen) := by
  obtain ⟨-, -, hyes, hno, -⟩ := h
  by_cases happ : TrailingAppended b (u.dec.cur + l.toNat) u
  · obtain ⟨hfixed | hne, hroom⟩ := trailingAppended_iff.mp happ
    · cases hpol.symm.trans hfixed
    · exact .inr ⟨(hyes happ).1, hne, hroom⟩
  · exact .inl (hno happ)

/-- A match whose zero is lost has the byte 0, and the input goes on after its copy. -/
theorem MatchAt.of_lossyAt {w : TokWord} {n : Nat} (h : MatchAt s.ibuf n (tokenStart s.tbuf i) w)
    (hw : memGet s.tbuf i = some w) (hn : s.tbufOlen = some n) (hlossy : lossyAt s i = true) :
    byteField w = 0 ∧ tokenStart s.tbuf i + (lenField w).toNat < n := by
  obtain ⟨-, hmore, hzero⟩ := (lossyAt_iff hw hn).mp hlossy
  exact ⟨Option.some.inj ((h.byte hmore).symm.trans hzero), hmore⟩

theorem Lags.literal (hv : Described v) {w : TokWord} (h : Lags v i u) (hat : AtToken v (i + 1) t)
    (hw : memGet v.tbuf i = some w) (hstart : tokenStart v.tbuf i < v.dec.olen)
    (hdesc : LiteralAt v.ibuf (tokenStart v.tbuf i) w) (hcur' : t.dec.cur = u.dec.cur + 1) : Lags v (i + 1) t := by
  have hcur := h.cur
  have hstart' := tokenStart_succ hw
  have hlen := hdesc.toNat_len
  refine ⟨hat, by omega, fun j hj hlossy => ?_⟩
  obtain hlt | rfl := Nat.lt_succ_iff_lt_or_eq.mp hj
  · have hless := h.short j hlt hlossy
    omega
  · exact absurd hdesc.dist ((lossyAt_iff hw hv.olen).mp hlossy).1

theorem Lags.copy (hv : Described v) {w : TokWord} (h : Lags v i u) (hat : AtToken v (i + 1) t)
    (hw : memGet v.tbuf i = some w) (hdesc : MatchAt v.ibuf v.dec.olen (tokenStart v.tbuf i) w)
    (hcur' : t.dec.cur = u.dec.cur + (lenField w).toNat ∨
      (t.dec.cur = u.dec.cur + (lenField w).toNat + 1 ∧ byteField w ≠ 0 ∧
        u.dec.cur + (lenField w).toNat < u.dec.olen)) : Lags v (i + 1) t := by
  have hcur := h.cur
  have hstart' := tokenStart_succ hw
  have hfits := hdesc.fits
  have hmore : byteField w ≠ 0 → tokenStart v.tbuf i + (lenField w).toNat < v.dec.olen := fun hne =>
    Nat.not_le.mp (mt hdesc.byteAtEnd hne)
  refine ⟨hat, ?_, fun j hj hlossy => ?_⟩
  · obtain hcur' | ⟨hcur', hne, -⟩ := hcur'
    · omega
    · have := hmore hne
      omega
  obtain hlt | rfl := Nat.lt_succ_iff_lt_or_eq.mp hj
  · have hless := h.short j hlt hlossy
    obtain hcur' | ⟨hcur', hne, -⟩ := hcur'
    · omega
    · have := hmore hne
      omega
  · obtain ⟨hzero, hlossyMore⟩ := hdesc.of_lossyAt hw hv.olen hlossy
    obtain hcur' | ⟨-, hne, -⟩ := hcur'
    · omega
    · exact absurd hzero hne

theorem Lags.step (hv : Described v) (hpol : v.cfg.zeroPolicy = .faithful) (h : Lags v i u) (hi : i < v.dec.tcnt) :
    ∃ t, Machine.step u = .next t ∧
      (Lags v (i + 1) t ∨ (t.host = v.host ∧ t.status = .error ∧ t.cause = .refBeforeStart)) := by
  have hcur := h.cur
  obtain ⟨w, t, hw, hstart, hstep, ⟨hat', hr⟩ | ⟨-, -, herr⟩⟩ := h.atToken.step hv hi (by omega)
  case inr => exact ⟨t, hstep, .inr herr⟩
  refine ⟨t, hstep, .inl ?_⟩
  cases hr with
  | literal hdesc heff => exact h.literal hv hat' hw hstart hdesc (congrArg (·.dec.cur) heff.1 :)
  | copy hdesc _ heff =>
    refine h.copy hv hat' hw hdesc (heff.cur_le ?_)
    rw [h.atToken.frame]
    exact hpol

/-- R99, R100: where a zero is lost, DECODE of the encoding finds a reference before the start or ends short. -/
theorem decode_falls_short {n cnt : Nat} (hb : t.status ≠ .busy) (henc : Encoded s n t cnt)
    (hpol : t.cfg.zeroPolicy = .faithful) (hlossy : LossyZero t) :
    ∃ k u, runs k (issue .decode t) = .next u ∧ u.host = [] ∧
      ((u.status = .error ∧ u.cause = .refBeforeStart) ∨
        (u.status = .done ∧ u.lenmis = true ∧ ∃ m, u.obufLen = some m ∧ m < n)) := by
  have hv := henc.described
  have hstart : Lags (decStarted t n cnt) 0 (decStarted t n cnt) :=
    ⟨atToken_decStarted t n cnt, Nat.zero_le _, fun j hj => absurd hj (Nat.not_lt_zero j)⟩
  obtain ⟨k, u, hrun, hlags | ⟨hhost, herr⟩⟩ := runs_through (n := cnt) hstart fun i u hi h => h.step hv hpol hi
  case inr =>
    exact ⟨k + 1, u, (runs_next (step_issue_decode hb henc.olen henc.tcnt)).trans hrun, hhost, .inl herr⟩
  obtain ⟨j, hj, hlossyAt⟩ := hlossy
  rw [henc.tcnt] at hj
  have hless : u.dec.cur < n := (Nat.lt_min.mp (hlags.short j hj hlossyAt)).2
  have hlen : lengthMismatch u.dec.cur u.dec.olen = true := by
    rw [hlags.atToken.olen]
    exact decide_eq_true hless.ne
  refine ⟨k + 1 + 1, decFinish u, ?_, ?_, .inr ⟨rfl, hlen, u.dec.cur, rfl, hless⟩⟩
  · exact henc.runs_finish hb hrun hlags.atToken
  · exact (congrArg State.host hlags.atToken.frame :)

/-- Settles O58: ENCODE has one end, and DECODE of what it leaves falls behind the input at the lost zero and stays
behind. -/
theorem lossyZerosShortenTheOutput : Obligations.LossyZerosShortenTheOutput := by
  intro s t n j hb hn hle hsrc hpol hrun hhost hdone hlossy
  obtain ⟨k, t', hrun', hhost', hend⟩ := encode_run hb hn hle hsrc
  have hidle' : t'.status ≠ .busy := by
    obtain ⟨herr, -⟩ | ⟨hdone', -⟩ := hend
    · rw [herr]
      decide
    · exact not_busy_of_done hdone'
  obtain rfl := runs_end_unique hrun (not_busy_of_done hdone) hhost hrun' hidle' hhost'
  obtain ⟨herr, -⟩ | ⟨-, cnt, henc⟩ := hend
  · cases hdone.symm.trans herr
  · exact decode_falls_short hidle' henc (henc.cfg ▸ hpol) hlossy

end Sys2Proof.Machine
end
